-- ==== Sys2Proof/Word.lean ====
section
/-! DEFINITION. The block's numeric types (00_scope.md R12): bytes, 16-bit words and the 48-bit operation word.
Every value is unsigned; the width in the type is where a result wraps. -/

namespace Sys2Proof

/-- `Byte` of R12: a value in 0..255. -/
abbrev Byte := BitVec 8

/-- `U16` of R12: a value in 0..65535. -/
abbrev U16 := BitVec 16

/-- The operation word of R84 (`OPW_WIDTH` = 48, R9). -/
abbrev OpWord := BitVec 48

end Sys2Proof
end

