-- ==== Sys2Proof/Machine/Operands.lean ====
section
/-! DEFINITION. Operand forms (30_encoding.md R84, R85) and byte order (R12, R61): the fields of an operation word, the
words of the three formats, and the big-endian split and join of 16-bit values. -/

namespace Sys2Proof.Machine

/-- `hi(x)` = `x[15:8]` (R12). -/
def hiByte (x : U16) : Byte := x.extractLsb' 8 8

/-- `lo(x)` = `x[7:0]` (R12). -/
def loByte (x : U16) : Byte := x.extractLsb' 0 8

/-- `{h, l}` (R12): `h` in bits 15..8. -/
def joinBytes (h l : Byte) : U16 := (h.setWidth 16 <<< 8) ||| l.setWidth 16

/-- `{h, l}` of two 16-bit values. -/
def joinWords (h l : U16) : BitVec 32 := (h.setWidth 32 <<< 16) ||| l.setWidth 32

/-- `OP` = `opw[47:40]` (R84). -/
def opcodeField (w : OpWord) : Byte := w.extractLsb' 40 8

/-- `opw[39:0]`, all reserved in format `Z` (R85). -/
def operandField (w : OpWord) : BitVec 40 := w.extractLsb' 0 40

/-- `opw[39:8]`, reserved in format `B` (R85). -/
def reservedFieldB (w : OpWord) : BitVec 32 := w.extractLsb' 8 32

/-- `b` = `opw[7:0]` of format `B` (R85). -/
def byteField (w : OpWord) : Byte := w.extractLsb' 0 8

/-- `cmd` = `opw[39:32]` of format `S` (R85). -/
def cmdField (w : OpWord) : Byte := w.extractLsb' 32 8

/-- `args` = `opw[31:16]` of format `S` (R85). -/
def argsField (w : OpWord) : U16 := w.extractLsb' 16 16

/-- `len` = `opw[15:0]` of format `S` (R85). -/
def lenField (w : OpWord) : U16 := w.extractLsb' 0 16

/-- The word of a format `Z` operation: the opcode over 40 zero bits (R85). -/
def wordZ (op : Byte) : OpWord := op.setWidth 48 <<< 40

/-- The word of a format `B` operation: the opcode, 32 zero bits, the byte (R85). -/
def wordB (op b : Byte) : OpWord := (op.setWidth 48 <<< 40) ||| b.setWidth 48

/-- The word of a format `S` operation (R85). -/
def wordS (op cmd : Byte) (args len : U16) : OpWord :=
  (op.setWidth 48 <<< 40) ||| (cmd.setWidth 48 <<< 32) ||| (args.setWidth 48 <<< 16) ||| len.setWidth 48

end Sys2Proof.Machine
end

