-- ==== Sys2Proof/Config.lean ====
section
/-! DEFINITION. What an implementation fixes: the constants of R7 and the parameters of R9. The parameters are plain
data that State carries unchanged, so a statement about every state is a statement about every parameter value. The
values the spec leaves unspecified after RESET (R40, R41) or does not state (R194; log 19) are constants with no body. -/

namespace Sys2Proof

/-- The order of the two count bytes of `CMD_UPDATE_DATA_PACKAGES` (`PKG_COUNT_ORDER`, R9, OPEN). -/
inductive ByteOrder where
  | be
  | le
  deriving DecidableEq, Repr

/-- The parameters of R9. -/
structure Config where
  /-- `TXQ_CAP`: capacity in bytes of the transmit queue; OPEN, at least 9 -/
  txqCap : Nat
  /-- `DATA_CAP`: data bytes stored per received frame; 1024 to 65535 -/
  dataCap : Nat
  /-- `PKG_COUNT_ORDER`: OPEN -/
  pkgCountOrder : ByteOrder
  /-- `HS_PAYLOAD_NUL`: OPEN -/
  hsPayloadNul : Bool
  /-- `ARGS_OTHER`: OPEN -/
  argsOther : U16
  deriving DecidableEq, Repr

/-- The ranges R9 gives the parameters. -/
abbrev Config.wf (c : Config) : Prop := 9 ≤ c.txqCap ∧ 1024 ≤ c.dataCap ∧ c.dataCap ≤ 65535

/-- The parameter values State.reset carries. `DATA_CAP` is the spec's default (R9). DESIGN CHOICE (log 2) for the OPEN
ones: the values the spec's own examples use; no statement rests on them. -/
def Config.standard : Config :=
  { txqCap := 64, dataCap := 65535, pkgCountOrder := .be, hsPayloadNul := false, argsOther := 0 }

/-- `HEADER` (R7). -/
def Config.header : Byte := 0xAA

/-- `TRAILER` (R7). -/
def Config.trailer : Byte := 0x55

/-- A 16-bit value that the spec leaves unspecified (R40, R41, R240) or does not state (R194; log 19): free, one draw per
number. -/
opaque Config.freeWord : Nat → U16

/-- A byte register's value where the spec says it is unspecified (R41, R240): free, one draw per number. -/
opaque Config.freeByte : Nat → Byte

/-- A byte buffer's contents where the spec says they are unspecified (R41, R240): free, one draw per number. -/
opaque Config.freeBytes : Nat → List Byte

end Sys2Proof
end

