-- ==== Sys2Proof/Syntax.lean ====
section
/-! DEFINITION. The instructions: one constructor per row of spec/opcode_table.json. The first ten are the operation words
of R86; the last six are the wire command codes of R92, as the host's requests to send that command's packet (R190 to
R195). Also the encoded forms the host presents, and why a form is rejected. -/

namespace Sys2Proof

/-- One constructor per row of the opcode table. -/
inductive Instr where
  /-- `NOP` (R180) -/
  | nop
  /-- `CRC_INIT` (R113) -/
  | crcInit
  /-- `CRC_BYTE b` (R114) -/
  | crcByte (b : Byte)
  /-- `TX_START cmd, args, len` (R133) -/
  | txStart (cmd : Byte) (args : U16) (len : U16)
  /-- `TX_DATA b` (R134) -/
  | txData (b : Byte)
  /-- `TX_ABORT` (R138) -/
  | txAbort
  /-- `RX_BYTE b` (R155) -/
  | rxByte (b : Byte)
  /-- `RX_ABORT` (R161) -/
  | rxAbort
  /-- `RX_ACK` (R162) -/
  | rxAck
  /-- `ERR_CLR` (R181) -/
  | errClr
  /-- `CMD_CHECKMODELTYPE` (R193): `model` is the 32-byte model identifier of the firmware file -/
  | cmdCheckModelType (model : List Byte)
  /-- `CMD_UPDATE` (R195): `seq` is the chunk sequence number, `chunk` the file bytes from the chunk's first on -/
  | cmdUpdate (seq : U16) (chunk : List Byte)
  /-- `CMD_UPDATE_DATA_PACKAGES` (R194): `total` is `totalChunks` -/
  | cmdUpdateDataPackages (total : BitVec 32)
  /-- `CMD_HANDSHAKE` (R192) -/
  | cmdHandshake
  /-- `CMD_INTO_BOOT` (R191) -/
  | cmdIntoBoot
  /-- `CMD_UPDATE_END` (R190) -/
  | cmdUpdateEnd
  deriving DecidableEq, Repr

/-- What the host agent presents, encoded: an operation word on the host port (R84), or a request to send one wire
command's packet, given by its command code (R92) and operand bytes (the layout of the operand bytes is the model's:
log 4). -/
inductive HostItem where
  | word (w : OpWord)
  | request (code : Byte) (operands : List Byte)
  deriving DecidableEq, Repr

/-- Why a form is no instruction. -/
inductive Reject where
  /-- the opcode is reserved (R88); the block records `RSV_OP` -/
  | reservedOpcode
  /-- a reserved operand bit is set (R89); the block records `RSV_BITS` -/
  | reservedBits
  /-- the request's code is none of the six of R92 -/
  | unknownCommand (code : Byte)
  /-- the request's operand bytes do not have the length the command needs -/
  | badOperands (code : Byte)
  deriving DecidableEq, Repr

/-- The serializer's instructions (42_serializer.md). -/
def Instr.isTx : Instr → Bool
  | .txStart _ _ _ => true
  | .txData _ => true
  | .txAbort => true
  | .nop => false
  | .crcInit => false
  | .crcByte _ => false
  | .rxByte _ => false
  | .rxAbort => false
  | .rxAck => false
  | .errClr => false
  | .cmdCheckModelType _ => false
  | .cmdUpdate _ _ => false
  | .cmdUpdateDataPackages _ => false
  | .cmdHandshake => false
  | .cmdIntoBoot => false
  | .cmdUpdateEnd => false

/-- The deserializer's instructions (43_deserializer.md). -/
def Instr.isRx : Instr → Bool
  | .rxByte _ => true
  | .rxAbort => true
  | .rxAck => true
  | .nop => false
  | .crcInit => false
  | .crcByte _ => false
  | .txStart _ _ _ => false
  | .txData _ => false
  | .txAbort => false
  | .errClr => false
  | .cmdCheckModelType _ => false
  | .cmdUpdate _ _ => false
  | .cmdUpdateDataPackages _ => false
  | .cmdHandshake => false
  | .cmdIntoBoot => false
  | .cmdUpdateEnd => false

/-- The wire commands (45_packet_vocabulary.md): requests, not operation words. -/
def Instr.isCommand : Instr → Bool
  | .cmdCheckModelType _ => true
  | .cmdUpdate _ _ => true
  | .cmdUpdateDataPackages _ => true
  | .cmdHandshake => true
  | .cmdIntoBoot => true
  | .cmdUpdateEnd => true
  | .nop => false
  | .crcInit => false
  | .crcByte _ => false
  | .txStart _ _ _ => false
  | .txData _ => false
  | .txAbort => false
  | .rxByte _ => false
  | .rxAbort => false
  | .rxAck => false
  | .errClr => false

end Sys2Proof
end

