-- ==== Sys2Proof/Machine/State.lean ====
section
/-! DEFINITION. The machine's state, all of it (10_state.md), as plain data, and the state after reset (R240). Beside the
block's registers stand the parameters it was built with, the observation `tx_wire` (R37), and the three agents' pending
inputs with the order in which the agents move (R10, R11). -/

namespace Sys2Proof.Machine

/-- Why a read of the block has no value (R42, R48, R166). No step raises one: the read ports do. -/
inductive Fault where
  /-- a `LAST_*` port read while `rx_have == 0`: "a fault of the model" in the spec's own words (R42, R48, R166, R240, item
  I1); raised by `readPort`, never by a step; safe: it stops where the spec does -/
  | lastAbsent
  /-- `BufRead(i)` with `i ≥ len(last_data)` (R166, item I2); raised by `bufRead`; safe -/
  | bufIndexOutside
  deriving DecidableEq, Repr

/-- Why the model has no step. -/
inductive Refusal where
  /-- an arm of exec with no meaning yet; no arm raises it; safe -/
  | notModelled (mnemonic : String)
  /-- the host asks for a wire command whose code is none of R92's six; raised by `rejectItem`; safe: the model stops -/
  | unknownCommand (code : Byte)
  /-- the host asks for a wire command with a number of operand bytes that is not its; raised by `rejectItem`; safe -/
  | badOperands (code : Byte)
  deriving DecidableEq, Repr

/-- `tx_state` (R33). -/
inductive TxState where
  | idle
  | data
  deriving DecidableEq, Repr

/-- `rx_state` (R38). -/
inductive RxState where
  | hunt
  | fixed
  | body
  deriving DecidableEq, Repr

/-- `rx_fix[0..4]` (R41): the five received fixed-field bytes. -/
structure RxFix where
  cmd : Byte
  argsHi : Byte
  argsLo : Byte
  lenHi : Byte
  lenLo : Byte
  deriving DecidableEq, Repr

/-- The last-decoded-packet registers (R42), written together. -/
structure LastPacket where
  cmd : Byte
  args : U16
  len : U16
  data : List Byte
  rcrc : U16
  ccrc : U16
  trailer : Byte
  verify : Bool
  trlOk : Bool
  trunc : Bool
  deriving DecidableEq, Repr

/-- An emitting operation that holds on the host port (R136). -/
inductive HeldOp where
  | txStart (cmd : Byte) (args : U16) (len : U16)
  | txData (b : Byte)
  deriving DecidableEq, Repr

/-- Who takes the next step: one of the three agents (R11), or the `RESET` input (R240). -/
inductive Turn where
  | host
  | lineIn
  | lineOut
  | reset
  deriving DecidableEq, Repr

/-- The state. -/
structure State where
  /-- the parameters (R9); no step changes them -/
  cfg : Config
  /-- `crc` (R32) -/
  crc : U16
  /-- `tx_state` (R33) -/
  txState : TxState
  /-- `tx_rem` (R34) -/
  txRem : U16
  /-- `tx_crc` (R35) -/
  txCrc : U16
  /-- `tx_q`, head first (R36) -/
  txQ : List Byte
  /-- `tx_wire`, oldest byte first: the model's observation of the line (R37) -/
  txWire : List Byte
  /-- `rx_state` (R38) -/
  rxState : RxState
  /-- `rx_idx`, 17 bits (R39) -/
  rxIdx : BitVec 17
  /-- `rx_crc` (R40) -/
  rxCrc : U16
  /-- `rx_fix` (R41) -/
  rxFix : RxFix
  /-- `rx_len` (R41) -/
  rxLen : U16
  /-- `rx_buf` (R41) -/
  rxBuf : List Byte
  /-- `rx_rcrc` (R41) -/
  rxRcrc : U16
  /-- the last-decoded registers; `none` is the spec's own "absent" (R42) -/
  last : Option LastPacket
  /-- `rx_have` (R43) -/
  rxHave : Bool
  /-- `rx_done` (R44) -/
  rxDone : Bool
  /-- `rx_ovr` (R45) -/
  rxOvr : Bool
  /-- `err_code` (R46) -/
  errCode : BitVec 3
  /-- the operation word held on the host port (R136, R241) -/
  held : Option HeldOp
  /-- what the host agent will present, in order (R10) -/
  hostPort : List HostItem
  /-- the received bytes the line-in agent will deliver, in arrival order (R10) -/
  lineIn : List Byte
  /-- whose step comes next: any interleaving is some list (R11, R68; log 5) -/
  schedule : List Turn
  /-- the model's own counter of the free values drawn so far (log 8) -/
  draws : Nat
  deriving DecidableEq, Repr

/-- Five bytes of zeros. -/
def RxFix.zero : RxFix := { cmd := 0, argsHi := 0, argsLo := 0, lenHi := 0, lenLo := 0 }

/-- The machine right after reset (R240): nothing to run, nothing sent. The in-progress receive registers, unspecified by
the spec, are 0 here (DESIGN CHOICE, log 7). -/
def State.reset : State :=
  { cfg := Config.standard
    crc := 0
    txState := .idle
    txRem := 0
    txCrc := 0
    txQ := []
    txWire := []
    rxState := .hunt
    rxIdx := 0
    rxCrc := 0
    rxFix := RxFix.zero
    rxLen := 0
    rxBuf := []
    rxRcrc := 0
    last := none
    rxHave := false
    rxDone := false
    rxOvr := false
    errCode := 0
    held := none
    hostPort := []
    lineIn := []
    schedule := []
    draws := 0 }

end Sys2Proof.Machine
end

