-- ==== Sys2Proof/Machine/Ops.lean ====
section
/-! DEFINITION. The primitives of R14 that the operations share: emitting to the transmit queue and its free space, holding,
recording an error (the block's only exception, R221), the line-out's step (R140) and the reset event (R240). -/

namespace Sys2Proof.Machine

/-- The error causes of R220. -/
inductive OpError where
  | rsvOp
  | rsvBits
  | txBusy
  | txIdle
  deriving DecidableEq, Repr

/-- The codes of R220. -/
def OpError.code : OpError → BitVec 3
  | .rsvOp => 1
  | .rsvBits => 2
  | .txBusy => 3
  | .txIdle => 4

/-- `raise OpError(code)` (R221): the first error is kept and nothing else happens. The block has no traps, so this is all
of taking an exception (R226). -/
def State.raise (e : OpError) (s : State) : State :=
  if s.errCode = 0 then { s with errCode := e.code } else s

/-- The return from an error: the record is cleared (R181, R227). -/
def State.clearError (s : State) : State := { s with errCode := 0 }

/-- `emit` (R14) of several bytes, the first byte first. -/
def State.emit (bytes : List Byte) (s : State) : State := { s with txQ := s.txQ ++ bytes }

/-- The queue has `n` free bytes: `TXQ_CAP − len(tx_q) ≥ n` (R136). -/
def State.hasRoom (n : Nat) (s : State) : Bool := decide (s.txQ.length + n ≤ s.cfg.txqCap)

/-- `hold` (R14, R136): the operation waits on the host port and writes nothing else. -/
def State.hold (h : HeldOp) (s : State) : State := { s with held := some h }

/-- `finish(c)` (R132): the frame tail, and the frame is closed. -/
def State.finish (c : U16) (s : State) : State :=
  { s with txQ := s.txQ ++ [hiByte c, loByte c, Config.trailer], txState := .idle, txRem := 0 }

/-- `TX_SHIFT` (R140): the head byte moves to the wire; with an empty queue the event is not enabled and nothing changes. -/
def State.txShift (s : State) : State :=
  match s.txQ with
  | [] => s
  | b :: q => { s with txQ := q, txWire := s.txWire ++ [b] }

/-- `RESET` (R240, R241). A held word is dropped. The wire keeps what was sent. The in-progress receive registers hold free
values (R40, R41; log 8). The parameters and the agents' pending inputs are not the block's, so they stay. -/
def State.applyReset (s : State) : State :=
  { s with
    crc := 0
    txState := .idle
    txRem := 0
    txCrc := 0
    txQ := []
    rxState := .hunt
    rxIdx := 0
    rxCrc := Config.freeWord s.draws
    rxFix :=
      { cmd := Config.freeByte s.draws
        argsHi := Config.freeByte (s.draws + 1)
        argsLo := Config.freeByte (s.draws + 2)
        lenHi := Config.freeByte (s.draws + 3)
        lenLo := Config.freeByte (s.draws + 4) }
    rxLen := Config.freeWord (s.draws + 1)
    rxBuf := (Config.freeBytes s.draws).take s.cfg.dataCap
    rxRcrc := Config.freeWord (s.draws + 2)
    last := none
    rxHave := false
    rxDone := false
    rxOvr := false
    errCode := 0
    held := none
    draws := s.draws + 5 }

end Sys2Proof.Machine
end

