-- ==== Sys2Proof/Machine/Control.lean ====
section
/-! DEFINITION. The control operations (44_control.md). -/

namespace Sys2Proof.Machine

/-- `NOP` (R180). -/
def execNop (s : State) : Host.Outcome State Fault Refusal := .next s

/-- `ERR_CLR` (R181). -/
def execErrClr (s : State) : Host.Outcome State Fault Refusal := .next s.clearError

end Sys2Proof.Machine
end

