-- ==== Sys2Proof/Machine/Crc.lean ====
section
/-! DEFINITION. The CRC-16 generator (41_crc.md): the algorithm, its wide-register and table forms, and the two operations
of the stand-alone unit. -/

namespace Sys2Proof.Machine

/-- `CRC_POLY` (R7). -/
def crcPoly : U16 := 0x1021

/-- One of the eight iterations of R110: shift left, and feed back if bit 15 of the value before the shift was set. -/
def crcShift (v : U16) : U16 := if v.getLsbD 15 then (v <<< 1) ^^^ crcPoly else v <<< 1

/-- `n` iterations. -/
def crcShifts : Nat → U16 → U16
  | 0, v => v
  | n + 1, v => crcShifts n (crcShift v)

/-- `crc_step(c, b)` (R110): `b` goes into bits 15..8, then eight iterations. -/
def crcStep (c : U16) (b : Byte) : U16 := crcShifts 8 (c ^^^ joinBytes b 0)

/-- `crc16_from(c0, s)` (R111). -/
def crc16From (c0 : U16) (s : List Byte) : U16 := s.foldl crcStep c0

/-- `crc16(s)` (R111): initial value 0x0000, no final XOR. -/
def crc16 (s : List Byte) : U16 := crc16From 0 s

/-- One iteration in a register of unbounded width, as the source allows (R112). -/
def crcShiftWide (v : Nat) : Nat := if v.testBit 15 then (v <<< 1) ^^^ 0x1021 else v <<< 1

/-- `n` iterations in a wide register. -/
def crcShiftsWide : Nat → Nat → Nat
  | 0, v => v
  | n + 1, v => crcShiftsWide n (crcShiftWide v)

/-- `crc_step` in a wide register (R112). -/
def crcStepWide (c : Nat) (b : Byte) : Nat := crcShiftsWide 8 (c ^^^ (b.toNat <<< 8))

/-- The CRC with a wide register, masked with `0xFFFF` once at the end (R112). -/
def crc16Wide (s : List Byte) : Nat := (s.foldl crcStepWide 0) &&& 0xFFFF

/-- `T[x]` (R117(a), R118). -/
def crcTable (x : Byte) : U16 := crcStep 0 x

/-- `crc_step` by table (R117(a)). -/
def crcStepTable (c : U16) (b : Byte) : U16 := (c <<< 8) ^^^ crcTable (hiByte c ^^^ b)

/-- `CRC_INIT` (R113). -/
def execCrcInit (s : State) : Host.Outcome State Fault Refusal := .next { s with crc := 0 }

/-- `CRC_BYTE b` (R114). -/
def execCrcByte (b : Byte) (s : State) : Host.Outcome State Fault Refusal := .next { s with crc := crcStep s.crc b }

end Sys2Proof.Machine
end

