-- ==== Sys2Proof/Machine/Deserializer.lean ====
section
/-! DEFINITION. The packet deserializer's operations (43_deserializer.md): one received byte per step, through the three
states of R154. -/

namespace Sys2Proof.Machine

/-- `rx_fix[i] <- b` (R157); in `FIXED` the index runs 0..4 (R39). -/
def RxFix.set (f : RxFix) (i : Nat) (b : Byte) : RxFix :=
  match i with
  | 0 => { f with cmd := b }
  | 1 => { f with argsHi := b }
  | 2 => { f with argsLo := b }
  | 3 => { f with lenHi := b }
  | 4 => { f with lenLo := b }
  | _ => f

/-- `rx_hunt(b)` (R156). -/
def rxHunt (b : Byte) (s : State) : State :=
  if b = Config.header then { s with rxState := .fixed, rxIdx := 0, rxCrc := 0, rxBuf := [] } else s

/-- `rx_fixed(b)` (R157). -/
def rxFixed (b : Byte) (s : State) : State :=
  let s1 := { s with rxFix := s.rxFix.set s.rxIdx.toNat b, rxCrc := crcStep s.rxCrc b }
  if s.rxIdx = 4 then { s1 with rxLen := joinBytes s.rxFix.lenHi b, rxState := .body, rxIdx := 0 }
  else { s1 with rxIdx := s.rxIdx + 1 }

/-- `rx_data(b)` (R158). -/
def rxData (b : Byte) (s : State) : State :=
  { s with
    rxBuf := if s.rxIdx.toNat < s.cfg.dataCap then s.rxBuf ++ [b] else s.rxBuf
    rxCrc := crcStep s.rxCrc b
    rxIdx := s.rxIdx + 1 }

/-- What frame completion latches (R160). -/
def completedPacket (t : Byte) (s : State) : LastPacket :=
  { cmd := s.rxFix.cmd
    args := joinBytes s.rxFix.argsHi s.rxFix.argsLo
    len := s.rxLen
    data := s.rxBuf
    rcrc := s.rxRcrc
    ccrc := s.rxCrc
    trailer := t
    verify := s.rxRcrc == s.rxCrc
    trlOk := t == Config.trailer
    trunc := decide (s.cfg.dataCap < s.rxLen.toNat) }

/-- `complete(t)` (R160). -/
def rxComplete (t : Byte) (s : State) : State :=
  { s with
    last := some (completedPacket t s)
    rxOvr := s.rxOvr || s.rxDone
    rxDone := true
    rxHave := true
    rxState := .hunt
    rxIdx := 0 }

/-- `rx_tail(b)` (R159). -/
def rxTail (b : Byte) (s : State) : State :=
  if s.rxIdx.toNat = s.rxLen.toNat then
    { s with rxRcrc := joinBytes b (loByte s.rxRcrc), rxIdx := s.rxIdx + 1 }
  else if s.rxIdx.toNat = s.rxLen.toNat + 1 then
    { s with rxRcrc := joinBytes (hiByte s.rxRcrc) b, rxIdx := s.rxIdx + 1 }
  else rxComplete b s

/-- One received byte (R155). -/
def rxDeliver (b : Byte) (s : State) : State :=
  match s.rxState with
  | .hunt => rxHunt b s
  | .fixed => rxFixed b s
  | .body => if s.rxIdx.toNat < s.rxLen.toNat then rxData b s else rxTail b s

/-- `RX_BYTE b` (R155). -/
def execRxByte (b : Byte) (s : State) : Host.Outcome State Fault Refusal := .next (rxDeliver b s)

/-- `RX_ABORT` (R161): the in-progress registers keep stale values. -/
def execRxAbort (s : State) : Host.Outcome State Fault Refusal := .next { s with rxState := .hunt, rxIdx := 0 }

/-- `RX_ACK` (R162). -/
def execRxAck (s : State) : Host.Outcome State Fault Refusal := .next { s with rxDone := false, rxOvr := false }

end Sys2Proof.Machine
end

