-- ==== Sys2Proof/Machine/Packet.lean ====
section
/-! DEFINITION. The wire packet as the source gives it: the pure functions `encode` (R130) and `decode` (R150) on whole
byte sequences, which the streaming serializer and deserializer agree with. -/

namespace Sys2Proof.Machine

/-- The fixed fields after the header: command, arguments and length, high bytes first (R61, R80). -/
def fixedFields (cmd : Byte) (args len : U16) : List Byte :=
  [cmd, hiByte args, loByte args, hiByte len, loByte len]

/-- The frame tail for a CRC value: its two bytes, high first, and the trailer (R80, R132). -/
def frameTail (c : U16) : List Byte := [hiByte c, loByte c, Config.trailer]

/-- The CRC region, `command..data` (R82). -/
def crcRegion (cmd : Byte) (args : U16) (data : List Byte) : List Byte :=
  fixedFields cmd args (BitVec.ofNat 16 data.length) ++ data

/-- `encode(cmd, args, data)` (R130). Undefined for more than 65535 data bytes (R131). -/
def encodePacket (cmd : Byte) (args : U16) (data : List Byte) : Option (List Byte) :=
  if data.length ≤ 65535 then
    some (Config.header :: crcRegion cmd args data ++ frameTail (crc16 (crcRegion cmd args data)))
  else none

/-- `Decoded` of R150. -/
structure Decoded where
  cmd : Byte
  args : U16
  len : U16
  data : List Byte
  rcrc : U16
  ccrc : U16
  trailer : Byte
  verify : Bool
  trlOk : Bool
  deriving DecidableEq, Repr

/-- `decode` past the fixed fields: exactly `L` data bytes, two CRC bytes and a trailer must follow (R150). -/
def decodeBody (cmd a1 a0 l1 l0 : Byte) (rest : List Byte) : Option Decoded :=
  match rest.drop (joinBytes l1 l0).toNat with
  | [c1, c0, t] =>
    some
      { cmd := cmd
        args := joinBytes a1 a0
        len := joinBytes l1 l0
        data := rest.take (joinBytes l1 l0).toNat
        rcrc := joinBytes c1 c0
        ccrc := crc16 ([cmd, a1, a0, l1, l0] ++ rest.take (joinBytes l1 l0).toNat)
        trailer := t
        verify := joinBytes c1 c0 == crc16 ([cmd, a1, a0, l1, l0] ++ rest.take (joinBytes l1 l0).toNat)
        trlOk := t == Config.trailer }
  | _ => none

/-- `decode(raw)` (R150): `none` unless `raw` has exactly 9 + L bytes. `raw[0]` is not read. -/
def decodePacket (raw : List Byte) : Option Decoded :=
  match raw with
  | _ :: cmd :: a1 :: a0 :: l1 :: l0 :: rest => decodeBody cmd a1 a0 l1 l0 rest
  | _ => none

end Sys2Proof.Machine
end

