-- ==== Sys2Proof/Machine/Serializer.lean ====
section
/-! DEFINITION. The packet serializer's operations (42_serializer.md). Each emitting operation checks its error condition
when the port presents it, once (R137), and then either performs or holds (R136). -/

namespace Sys2Proof.Machine

/-- The free queue bytes `TX_START` needs (R133). -/
def txStartNeed (len : U16) : Nat := if len = 0 then 9 else 6

/-- `TX_START` once its check has passed and there is room (R133). -/
def txStartPerform (cmd : Byte) (args len : U16) (s : State) : State :=
  let c := crc16 (fixedFields cmd args len)
  let s1 := State.emit (Config.header :: fixedFields cmd args len) { s with txCrc := c }
  if len = 0 then s1.finish c else { s1 with txRem := len, txState := .data }

/-- `TX_START` after its check: it performs, or holds for room (R136). -/
def txStartOrHold (cmd : Byte) (args len : U16) (s : State) : State :=
  if s.hasRoom (txStartNeed len) then txStartPerform cmd args len s else s.hold (.txStart cmd args len)

/-- `TX_START cmd, args, len` (R133). -/
def execTxStart (cmd : Byte) (args len : U16) (s : State) : Host.Outcome State Fault Refusal :=
  match s.txState with
  | .data => .next (s.raise .txBusy)
  | .idle => .next (txStartOrHold cmd args len s)

/-- The free queue bytes `TX_DATA` needs: its own byte, and with the last one the tail (R134). -/
def txDataNeed (s : State) : Nat := if s.txRem = 1 then 4 else 1

/-- `TX_DATA` once its check has passed and there is room (R134). -/
def txDataPerform (b : Byte) (s : State) : State :=
  let c := crcStep s.txCrc b
  let s1 := State.emit [b] { s with txCrc := c }
  if s.txRem = 1 then s1.finish c else { s1 with txRem := s.txRem - 1 }

/-- `TX_DATA` after its check: it performs, or holds for room (R136). -/
def txDataOrHold (b : Byte) (s : State) : State :=
  if s.hasRoom (txDataNeed s) then txDataPerform b s else s.hold (.txData b)

/-- `TX_DATA b` (R134). -/
def execTxData (b : Byte) (s : State) : Host.Outcome State Fault Refusal :=
  match s.txState with
  | .idle => .next (s.raise .txIdle)
  | .data => .next (txDataOrHold b s)

/-- A held operation on the host's next turn: with no second check (R137) it performs or goes on holding. -/
def resumeHeld (h : HeldOp) (s : State) : State :=
  match h with
  | .txStart cmd args len => txStartOrHold cmd args len { s with held := none }
  | .txData b => txDataOrHold b { s with held := none }

/-- `TX_ABORT` (R138). `tx_crc` is not written. -/
def execTxAbort (s : State) : Host.Outcome State Fault Refusal :=
  .next { s with txState := .idle, txRem := 0, txQ := [] }

end Sys2Proof.Machine
end

