-- ==== Sys2Proof/WellFormed.lean ====
section
/-! DEFINITION. The checks an instruction must pass: those the types do not already make. Every operation word's operand
fills its field (R85), so only the wire commands' operands have checks. -/

namespace Sys2Proof

/-- `CMD_CHECKMODELTYPE` carries 32 bytes (R193). -/
def Instr.wf : Instr → Bool
  | .nop => true
  | .crcInit => true
  | .crcByte _ => true
  | .txStart _ _ _ => true
  | .txData _ => true
  | .txAbort => true
  | .rxByte _ => true
  | .rxAbort => true
  | .rxAck => true
  | .errClr => true
  | .cmdCheckModelType model => model.length == 32
  | .cmdUpdate _ _ => true
  | .cmdUpdateDataPackages _ => true
  | .cmdHandshake => true
  | .cmdIntoBoot => true
  | .cmdUpdateEnd => true

end Sys2Proof
end

