-- ==== Sys2Proof/Decode.lean ====
section
/-! DEFINITION. The decoder, total on every form the host can present, and the encoder, both written from 30_encoding.md.
Decoding an operation word checks the opcode first and the reserved bits second (R89); the state checks belong to the
operation. -/

namespace Sys2Proof

open Machine

/-- Format `Z`: all 40 operand bits must be 0 (R85, R89). -/
def decodeZ (i : Instr) (w : OpWord) : Except Reject Instr :=
  if operandField w = 0 then .ok i else .error .reservedBits

/-- Format `B`: bits 39..8 must be 0 (R85, R89). -/
def decodeB (f : Byte → Instr) (w : OpWord) : Except Reject Instr :=
  if reservedFieldB w = 0 then .ok (f (byteField w)) else .error .reservedBits

/-- The opcode map of R86; every other opcode is reserved (R88). -/
def decodeWord (w : OpWord) : Except Reject Instr :=
  match (opcodeField w).toNat with
  | 0x00 => decodeZ .nop w
  | 0x01 => decodeZ .crcInit w
  | 0x02 => decodeB .crcByte w
  | 0x10 => .ok (.txStart (cmdField w) (argsField w) (lenField w))
  | 0x11 => decodeB .txData w
  | 0x12 => decodeZ .txAbort w
  | 0x20 => decodeB .rxByte w
  | 0x21 => decodeZ .rxAbort w
  | 0x22 => decodeZ .rxAck w
  | 0x30 => decodeZ .errClr w
  | _ => .error .reservedOpcode

/-- A request that takes no operand bytes. -/
def decodeBare (i : Instr) (code : Byte) (operands : List Byte) : Except Reject Instr :=
  match operands with
  | [] => .ok i
  | _ :: _ => .error (.badOperands code)

/-- A request with its operands, refused unless it is well formed. -/
def checkRequest (code : Byte) (i : Instr) : Except Reject Instr :=
  if i.wf then .ok i else .error (.badOperands code)

/-- `CMD_UPDATE`'s operand bytes: the sequence number, high byte first, then the file bytes. -/
def decodeUpdate (code : Byte) (operands : List Byte) : Except Reject Instr :=
  match operands with
  | h :: l :: chunk => .ok (.cmdUpdate (joinBytes h l) chunk)
  | _ => .error (.badOperands code)

/-- `CMD_UPDATE_DATA_PACKAGES`'s operand bytes: `totalChunks`, four bytes, highest first. -/
def decodePackages (code : Byte) (operands : List Byte) : Except Reject Instr :=
  match operands with
  | [b3, b2, b1, b0] => .ok (.cmdUpdateDataPackages (joinWords (joinBytes b3 b2) (joinBytes b1 b0)))
  | _ => .error (.badOperands code)

/-- The wire command codes of R92; no other command code appears in the source. -/
def decodeRequest (code : Byte) (operands : List Byte) : Except Reject Instr :=
  match code.toNat with
  | 0x02 => checkRequest code (.cmdCheckModelType operands)
  | 0x03 => decodeUpdate code operands
  | 0x04 => decodePackages code operands
  | 0x0A => decodeBare .cmdHandshake code operands
  | 0x42 => decodeBare .cmdIntoBoot code operands
  | 0x45 => decodeBare .cmdUpdateEnd code operands
  | _ => .error (.unknownCommand code)

/-- The decoder. -/
def decode : HostItem → Except Reject Instr
  | .word w => decodeWord w
  | .request code operands => decodeRequest code operands

/-- The encoder: the operation word of R86, or the request that asks for the command. -/
def encode : Instr → HostItem
  | .nop => .word (wordZ 0x00)
  | .crcInit => .word (wordZ 0x01)
  | .crcByte b => .word (wordB 0x02 b)
  | .txStart cmd args len => .word (wordS 0x10 cmd args len)
  | .txData b => .word (wordB 0x11 b)
  | .txAbort => .word (wordZ 0x12)
  | .rxByte b => .word (wordB 0x20 b)
  | .rxAbort => .word (wordZ 0x21)
  | .rxAck => .word (wordZ 0x22)
  | .errClr => .word (wordZ 0x30)
  | .cmdCheckModelType model => .request 0x02 model
  | .cmdUpdate seq chunk => .request 0x03 (hiByte seq :: loByte seq :: chunk)
  | .cmdUpdateDataPackages total =>
    .request 0x04 [total.extractLsb' 24 8, total.extractLsb' 16 8, total.extractLsb' 8 8, total.extractLsb' 0 8]
  | .cmdHandshake => .request 0x0A []
  | .cmdIntoBoot => .request 0x42 []
  | .cmdUpdateEnd => .request 0x45 []

/-- How many operand bytes of zeros the opcode table's 8-bit row for `code` stands before (log 4): the model identifier,
the sequence number (with no file bytes after it: they are zero-padded), the chunk count, or none. -/
def tableOperandBytes (code : Byte) : Nat :=
  match code.toNat with
  | 0x02 => 32
  | 0x03 => 2
  | 0x04 => 4
  | _ => 0

/-- The form an opcode-table word stands for: the 8-bit rows are command codes, the others operation words. -/
def tableItem (nbits w : Nat) : HostItem :=
  if nbits ≤ 8 then .request (BitVec.ofNat 8 w) (List.replicate (tableOperandBytes (BitVec.ofNat 8 w)) 0)
  else .word (BitVec.ofNat 48 w)

/-- What the decoder reads from an opcode-table word. -/
def decodeTableWord (nbits w : Nat) : Option Instr :=
  match decode (tableItem nbits w) with
  | .ok i => some i
  | .error _ => none

end Sys2Proof
end

