-- ==== Sys2Proof/Machine/Assembler.lean ====
section
/-! DEFINITION. The pseudo-operations of R91 and their expansions. -/

namespace Sys2Proof.Machine

/-- `TX_START cmd, args, L`, then one `TX_DATA` per data byte. -/
def sendInstrs (cmd : Byte) (args : U16) (data : List Byte) : List Instr :=
  .txStart cmd args (BitVec.ofNat 16 data.length) :: data.map .txData

/-- `SEND cmd, args, data`; L must be at most 65535. -/
def asmSend (cmd : Byte) (args : U16) (data : List Byte) : Option (List Instr) :=
  if data.length ≤ 65535 then some (sendInstrs cmd args data) else none

/-- `CRC_BLOCK data`. -/
def asmCrcBlock (data : List Byte) : List Instr := .crcInit :: data.map .crcByte

/-- `FEED stream`. -/
def asmFeed (stream : List Byte) : List Instr := stream.map .rxByte

/-- `CLEAR`. -/
def asmClear : List Instr := [.rxAck, .errClr]

/-- The session start R242 recommends. -/
def sessionStart : List Instr := [.txAbort, .rxAbort, .rxAck, .errClr]

end Sys2Proof.Machine
end

