-- ==== Sys2Proof/Machine/Flags.lean ====
section
/-! DEFINITION. The status flags and the STATUS word (R47, R49). -/

namespace Sys2Proof.Machine

/-- `TX_BUSY` (R33, R49): 1 exactly when a frame is open. -/
def State.txBusy (s : State) : Bool := decide (s.txState = .data)

/-- `RX_STATE` of `STATUS[7:6]` (R38, R49). -/
def RxState.code : RxState → BitVec 2
  | .hunt => 0
  | .fixed => 1
  | .body => 2

/-- `VERIFY`: `rx_have & last_verify` (R49). -/
def State.statusVerify (s : State) : Bool := s.rxHave && s.last.any (·.verify)

/-- `TRL_OK`: `rx_have & last_trl_ok` (R49). -/
def State.statusTrlOk (s : State) : Bool := s.rxHave && s.last.any (·.trlOk)

/-- `TRUNC`: `rx_have & last_trunc` (R49). -/
def State.statusTrunc (s : State) : Bool := s.rxHave && s.last.any (·.trunc)

/-- A one-bit field at bit `k` of the STATUS word. -/
def statusBit (b : Bool) (k : Nat) : BitVec 16 := (BitVec.ofBool b).setWidth 16 <<< k

/-- `STATUS` (R49), field by field from bit 0; bits 15..12 are 0. -/
def State.status (s : State) : BitVec 16 :=
  statusBit s.rxDone 0 ||| statusBit s.rxOvr 1 ||| statusBit s.rxHave 2 ||| statusBit s.statusVerify 3 |||
    statusBit s.statusTrlOk 4 ||| statusBit s.statusTrunc 5 ||| (s.rxState.code.setWidth 16 <<< 6) |||
    statusBit s.txBusy 8 ||| (s.errCode.setWidth 16 <<< 9)

end Sys2Proof.Machine
end

