-- ==== Sys2Proof/Machine/Vocabulary.lean ====
section
/-! DEFINITION. The packet vocabulary at the block boundary (45_packet_vocabulary.md): each wire command's packet, the
host's requests to send them, the chunking of the firmware file, and the replies. The block carries all of it unread
(R63, R168). A request is carried out as R91's `SEND`: its operation words go to the host port, ahead of what the host
presents next (log 3). -/

namespace Sys2Proof.Machine

/-- `CMD_HANDSHAKE`'s payload (R192): "BOOTLOADER_V3", with a NUL after it if `HS_PAYLOAD_NUL`. -/
def handshakePayload (c : Config) : List Byte :=
  [0x42, 0x4F, 0x4F, 0x54, 0x4C, 0x4F, 0x41, 0x44, 0x45, 0x52, 0x5F, 0x56, 0x33] ++ if c.hsPayloadNul then [0] else []

/-- The count `P` (R194). -/
def countValue (total : Nat) : Nat := if 1 < total then total - 1 else total

/-- `P` as the 2-byte payload holds it (R194). A `P` above 65535 has no such form and the spec states none, so the two bytes
are a free value there (DESIGN CHOICE, log 19). -/
def State.countWord (total : Nat) (s : State) : U16 :=
  if total ≤ 65536 then BitVec.ofNat 16 (countValue total) else Config.freeWord s.draws

/-- How many free values `countWord` draws. -/
def countDraws (total : Nat) : Nat := if total ≤ 65536 then 0 else 1

/-- The two count bytes in the order `PKG_COUNT_ORDER` (R194). -/
def countPayload (c : Config) (p : U16) : List Byte :=
  match c.pkgCountOrder with
  | .be => [hiByte p, loByte p]
  | .le => [loByte p, hiByte p]

/-- A chunk's payload: the next 1024 of the file bytes given, zero-padded if they are fewer (R195, R196; log 13). -/
def chunkPayload (chunk : List Byte) : List Byte := (chunk ++ List.replicate 1024 0).take 1024

/-- `totalChunks` = ceil(L / 1024) for a file of length `L` (R196). -/
def totalChunks (fileLength : Nat) : Nat := (fileLength + 1023) / 1024

/-- The file bytes of chunk `k`, 0-based: the next 1024 bytes of the file (R195, R196). -/
def fileChunk (file : List Byte) (k : Nat) : List Byte := (file.drop (1024 * k)).take 1024

/-- The model-identifier block: 32 bytes at file offset 992 (R193). -/
def modelBlock (file : List Byte) : List Byte := (file.drop 992).take 32

/-- The host sends one packet: `SEND`'s words stand next on the host port, in order (R91). -/
def State.sendPacket (cmd : Byte) (args : U16) (data : List Byte) (s : State) : State :=
  { s with hostPort := (sendInstrs cmd args data).map encode ++ s.hostPort }

/-- `CMD_CHECKMODELTYPE` (R193). -/
def execCmdCheckModelType (model : List Byte) (s : State) : Host.Outcome State Fault Refusal :=
  .next (s.sendPacket 0x02 s.cfg.argsOther model)

/-- `CMD_UPDATE` (R195): the arguments are the chunk sequence number. -/
def execCmdUpdate (seq : U16) (chunk : List Byte) (s : State) : Host.Outcome State Fault Refusal :=
  .next (s.sendPacket 0x03 seq (chunkPayload chunk))

/-- `CMD_UPDATE_DATA_PACKAGES` (R194). -/
def execCmdUpdateDataPackages (total : BitVec 32) (s : State) : Host.Outcome State Fault Refusal :=
  .next (State.sendPacket 0x04 s.cfg.argsOther (countPayload s.cfg (s.countWord total.toNat))
    { s with draws := s.draws + countDraws total.toNat })

/-- `CMD_HANDSHAKE` (R192). -/
def execCmdHandshake (s : State) : Host.Outcome State Fault Refusal :=
  .next (s.sendPacket 0x0A s.cfg.argsOther (handshakePayload s.cfg))

/-- `CMD_INTO_BOOT` (R191). -/
def execCmdIntoBoot (s : State) : Host.Outcome State Fault Refusal := .next (s.sendPacket 0x42 s.cfg.argsOther [])

/-- `CMD_UPDATE_END` (R190). -/
def execCmdUpdateEnd (s : State) : Host.Outcome State Fault Refusal := .next (s.sendPacket 0x45 s.cfg.argsOther [])

/-- The error codes of R198. -/
inductive ReplyError where
  | handshakeCode
  | dataVerification
  | wrongAddress
  | flashWrite
  | commandError
  | modelMismatch
  deriving DecidableEq, Repr

/-- All except 0xE2 are fatal (R198). -/
def ReplyError.fatal : ReplyError → Bool
  | .handshakeCode => true
  | .dataVerification => false
  | .wrongAddress => true
  | .flashWrite => true
  | .commandError => true
  | .modelMismatch => true

/-- What a reply means to the host. -/
inductive Reply where
  /-- `commandArgs` is the ACK marker (R197) -/
  | ack
  /-- `commandArgs` is one of the six error codes (R198) -/
  | failed (e : ReplyError)
  /-- any other value has no meaning in the source (R198, item I9) -/
  | noMeaning
  deriving DecidableEq, Repr

/-- A reply's meaning by its whole 16-bit `commandArgs` (R93, R197, R198). -/
def replyOf (args : U16) : Reply :=
  match args.toNat with
  | 0x0006 => .ack
  | 0x00E1 => .failed .handshakeCode
  | 0x00E2 => .failed .dataVerification
  | 0x00E3 => .failed .wrongAddress
  | 0x00E4 => .failed .flashWrite
  | 0x00E5 => .failed .commandError
  | 0x00E6 => .failed .modelMismatch
  | _ => .noMeaning

/-- What the host may act on: a waiting frame with `verify == 1` only (R200(a), (b)). The reply's command byte is any
value and is not looked at (R199). -/
def State.hostReply (s : State) : Option Reply :=
  if s.rxDone && s.statusVerify then s.last.map (fun p => replyOf p.args) else none

/-- The binary phase's states, in command order (R201; informative, the Engine's). -/
inductive Phase where
  | intoBootMode
  | handShake1
  | checkModelType
  | sendPackages
  | readFile
  | finalize
  | finished
  deriving DecidableEq, Repr

/-- The wire command code each phase sends (R201). -/
def Phase.command : Phase → Option Byte
  | .intoBootMode => some 0x42
  | .handShake1 => some 0x0A
  | .checkModelType => some 0x02
  | .sendPackages => some 0x04
  | .readFile => some 0x03
  | .finalize => some 0x45
  | .finished => none

/-- Where the ACK of a phase's command leads (R202); `exhausted` says that the file has no bytes left. -/
def Phase.afterAck (exhausted : Bool) : Phase → Phase
  | .intoBootMode => .handShake1
  | .handShake1 => .checkModelType
  | .checkModelType => .sendPackages
  | .sendPackages => .readFile
  | .readFile => if exhausted then .finalize else .readFile
  | .finalize => .finished
  | .finished => .finished

/-- The binary phase's first state (R201): the key combination skips `CMD_INTO_BOOT`. -/
def Phase.first (keyCombo : Bool) : Phase := if keyCombo then .handShake1 else .intoBootMode

end Sys2Proof.Machine
end

