-- ==== Sys2Proof/Machine/Dispatch.lean ====
section
/-! DEFINITION. One arm per constructor of Instr: the instruction's meaning. -/

namespace Sys2Proof.Machine

def exec (i : Instr) (s : State) : Host.Outcome State Fault Refusal :=
  match i with
  | .nop => Sys2Proof.Machine.execNop s
  | .crcInit => Sys2Proof.Machine.execCrcInit s
  | .crcByte b => Sys2Proof.Machine.execCrcByte b s
  | .txStart cmd args len => Sys2Proof.Machine.execTxStart cmd args len s
  | .txData b => Sys2Proof.Machine.execTxData b s
  | .txAbort => Sys2Proof.Machine.execTxAbort s
  | .rxByte b => Sys2Proof.Machine.execRxByte b s
  | .rxAbort => Sys2Proof.Machine.execRxAbort s
  | .rxAck => Sys2Proof.Machine.execRxAck s
  | .errClr => Sys2Proof.Machine.execErrClr s
  | .cmdCheckModelType model => Sys2Proof.Machine.execCmdCheckModelType model s
  | .cmdUpdate seq chunk => Sys2Proof.Machine.execCmdUpdate seq chunk s
  | .cmdUpdateDataPackages total => Sys2Proof.Machine.execCmdUpdateDataPackages total s
  | .cmdHandshake => Sys2Proof.Machine.execCmdHandshake s
  | .cmdIntoBoot => Sys2Proof.Machine.execCmdIntoBoot s
  | .cmdUpdateEnd => Sys2Proof.Machine.execCmdUpdateEnd s

end Sys2Proof.Machine
end

