-- ==== Sys2Proof/Machine/Agents.lean ====
section
/-! DEFINITION. The agents' steps (R10, R11): the host port takes one form at a time, in order, and takes none while an
operation holds (R136); the line-in delivers one byte as `RX_BYTE` and never holds. -/

namespace Sys2Proof.Machine

/-- A form that is no instruction: a reserved opcode or reserved bits record their error and nothing else (R88, R89); a
request for no known command is refused. -/
def rejectItem (r : Reject) (s : State) : Host.Outcome State Fault Refusal :=
  match r with
  | .reservedOpcode => .next (s.raise .rsvOp)
  | .reservedBits => .next (s.raise .rsvBits)
  | .unknownCommand code => .refused (.unknownCommand code)
  | .badOperands code => .refused (.badOperands code)

/-- The port takes one form. -/
def acceptItem (item : HostItem) (s : State) : Host.Outcome State Fault Refusal :=
  match decode item with
  | .ok i => exec i s
  | .error r => rejectItem r s

/-- The host's turn: a held operation first (R136), else the next form, if there is one. -/
def hostStep (s : State) : Host.Outcome State Fault Refusal :=
  match s.held with
  | some h => .next (resumeHeld h s)
  | none =>
    match s.hostPort with
    | [] => .next s
    | item :: rest => acceptItem item { s with hostPort := rest }

/-- The line-in's turn: the next received byte, if there is one, as `RX_BYTE` (R10, R155). -/
def lineInStep (s : State) : Host.Outcome State Fault Refusal :=
  match s.lineIn with
  | [] => .next s
  | b :: rest => exec (.rxByte b) { s with lineIn := rest }

/-- One turn. -/
def takeTurn (t : Turn) (s : State) : Host.Outcome State Fault Refusal :=
  match t with
  | .host => hostStep s
  | .lineIn => lineInStep s
  | .lineOut => .next s.txShift
  | .reset => .next s.applyReset

/-- The form stands next on a free host port, and the next turn is the host's. -/
def State.presentNext (item : HostItem) (s : State) : State :=
  { s with held := none, hostPort := item :: s.hostPort, schedule := .host :: s.schedule }

/-- Instructions performed one after another, each on the state the one before it left. -/
def execAll : List Instr → State → Host.Outcome State Fault Refusal
  | [], s => .next s
  | i :: is, s =>
    match exec i s with
    | .next t => execAll is t
    | .fault f => .fault f
    | .refused r => .refused r

end Sys2Proof.Machine
end

