-- ==== Sys2Proof/Machine/Step.lean ====
section
/-! DEFINITION. One step of the machine: the agent at the head of the schedule takes its turn (R11, R68). With no turn
listed no agent moves and the state holds (R231). -/

namespace Sys2Proof.Machine

def step (s : State) : Host.Outcome State Fault Refusal :=
  match s.schedule with
  | [] => .next s
  | t :: rest => takeTurn t { s with schedule := rest }

/-- The opcode-table word as the next form on a free host port, with the host's turn next. -/
def State.withFetchWord (s : State) (nbits w : Nat) : State := s.presentNext (tableItem nbits w)

end Sys2Proof.Machine
end

