-- ==== Sys2Proof/Machine/Ports.lean ====
section
/-! DEFINITION. The combinational read ports (R48). A read is a function of the state, so it changes nothing (R66). -/

namespace Sys2Proof.Machine

/-- The read ports of R48. -/
inductive ReadPort where
  | crcOut
  | status
  | txLevel
  | txRem
  | lastCmd
  | lastArgs
  | lastLen
  | lastData (i : Nat)
  | lastRcrc
  | lastCcrc
  | lastTrailer
  deriving DecidableEq, Repr

/-- What a port shows: 8 bits, 16 bits, or a queue level (as many bits as `TXQ_CAP` needs). -/
inductive PortValue where
  | byte (b : Byte)
  | word (w : U16)
  | level (n : Nat)
  deriving DecidableEq, Repr

/-- The last decoded packet, where it can be read. While `rx_have == 0` its registers are absent and "the read is a fault of
the model" (R42, R48, R166, item I1); this is the one place that stops so. With `rx_have == 1` there is always a packet
(`Inv.have_last`). -/
def State.lastDecoded (s : State) : Except Fault LastPacket :=
  match if s.rxHave then s.last else none with
  | some p => .ok p
  | none => .error .lastAbsent

/-- A last-decoded register (R42). -/
def readLast (f : LastPacket → PortValue) (s : State) : Except Fault PortValue := s.lastDecoded.map f

/-- `BufRead(i)` (R166). -/
def bufRead (i : Nat) (s : State) : Except Fault PortValue :=
  match s.lastDecoded with
  | .error e => .error e
  | .ok p =>
    match p.data[i]? with
    | some b => .ok (.byte b)
    | none => .error .bufIndexOutside

/-- A read port's value (R48). -/
def readPort (p : ReadPort) (s : State) : Except Fault PortValue :=
  match p with
  | .crcOut => .ok (.word s.crc)
  | .status => .ok (.word s.status)
  | .txLevel => .ok (.level s.txQ.length)
  | .txRem => .ok (.word s.txRem)
  | .lastCmd => readLast (fun l => .byte l.cmd) s
  | .lastArgs => readLast (fun l => .word l.args) s
  | .lastLen => readLast (fun l => .word l.len) s
  | .lastData i => bufRead i s
  | .lastRcrc => readLast (fun l => .word l.rcrc) s
  | .lastCcrc => readLast (fun l => .word l.ccrc) s
  | .lastTrailer => readLast (fun l => .byte l.trailer) s

end Sys2Proof.Machine
end

