-- ==== Sys2Proof/Safety.lean ====
section
/-! DEFINITION. The terms the statements use: the invariant of the machine, which host inputs a run can go on with, what has
been emitted, which registers are observable, and copies of one unit's state into another state. -/

namespace Sys2Proof.Machine

/-- The last-decoded registers agree among themselves as R42 says. -/
structure LastPacket.Consistent (c : Config) (p : LastPacket) : Prop where
  verify_eq : p.verify = (p.rcrc == p.ccrc)
  trlOk_eq : p.trlOk = (p.trailer == 0x55)
  trunc_eq : p.trunc = decide (c.dataCap < p.len.toNat)
  data_length : p.data.length = min p.len.toNat c.dataCap

/-- What every step keeps: the ranges and relations 10_state.md gives the registers. -/
structure Inv (s : State) : Prop where
  /-- the parameters are in R9's ranges -/
  cfg_wf : s.cfg.wf
  /-- R34: `tx_rem` is 0 exactly when no frame is open -/
  tx_rem : s.txState = .idle ↔ s.txRem = 0
  /-- R36 -/
  tx_level : s.txQ.length ≤ s.cfg.txqCap
  /-- R156 to R161: `rx_idx` is 0 in `HUNT` -/
  hunt_idx : s.rxState = .hunt → s.rxIdx = 0
  /-- R39 -/
  fixed_idx : s.rxState = .fixed → s.rxIdx.toNat ≤ 4
  /-- R39 -/
  body_idx : s.rxState = .body → s.rxIdx.toNat ≤ s.rxLen.toNat + 2
  /-- R41: `rx_buf` holds up to `DATA_CAP` bytes -/
  buf_cap : s.rxBuf.length ≤ s.cfg.dataCap
  /-- R156, R157: no data byte yet -/
  fixed_buf : s.rxState = .fixed → s.rxBuf = []
  /-- R158: the data bytes received so far, up to the capacity -/
  body_buf : s.rxState = .body → s.rxBuf.length = min (min s.rxIdx.toNat s.rxLen.toNat) s.cfg.dataCap
  /-- R43: `rx_have` tells whether the last-decoded registers hold a frame -/
  have_last : s.rxHave = s.last.isSome
  /-- R44, R160: a waiting packet is a decoded one -/
  done_have : s.rxDone = true → s.rxHave = true
  /-- R45, R162: an overrun is of a waiting packet -/
  ovr_done : s.rxOvr = true → s.rxDone = true
  /-- R42 -/
  last_ok : ∀ p, s.last = some p → p.Consistent s.cfg
  /-- R46: codes 5 to 7 are never written -/
  err_range : s.errCode.toNat ≤ 4
  /-- R137: a held `TX_START` has passed its check -/
  held_start : ∀ cmd args len, s.held = some (.txStart cmd args len) → s.txState = .idle
  /-- R137: a held `TX_DATA` has passed its check -/
  held_data : ∀ b, s.held = some (.txData b) → s.txState = .data

/-- Every request the host will make names a command of R92 with the operand bytes it needs. (Any operation word may be
presented: decoding is total, R90.) -/
def State.RequestsOk (s : State) : Prop :=
  ∀ code operands, HostItem.request code operands ∈ s.hostPort → ∃ i, decode (.request code operands) = .ok i

/-- The bytes emitted since the start of the run and not dropped: those on the wire, then those queued (R69). -/
def State.emitted (s : State) : List Byte := s.txWire ++ s.txQ

/-- The two states differ at most in registers whose values cannot be observed before they are written: `tx_crc` while no
frame is open (R35), and the in-progress receive registers from the bytes this frame has not yet supplied (R40, R41). -/
structure SameSeen (s t : State) : Prop where
  cfg : s.cfg = t.cfg
  crc : s.crc = t.crc
  txState : s.txState = t.txState
  txRem : s.txRem = t.txRem
  txCrc : s.txState = .data → s.txCrc = t.txCrc
  txQ : s.txQ = t.txQ
  txWire : s.txWire = t.txWire
  rxState : s.rxState = t.rxState
  rxIdx : s.rxIdx = t.rxIdx
  rxCrc : s.rxState ≠ .hunt → s.rxCrc = t.rxCrc
  rxBuf : s.rxState ≠ .hunt → s.rxBuf = t.rxBuf
  fix_cmd : (s.rxState = .fixed → 0 < s.rxIdx.toNat) → s.rxState ≠ .hunt → s.rxFix.cmd = t.rxFix.cmd
  fix_argsHi : (s.rxState = .fixed → 1 < s.rxIdx.toNat) → s.rxState ≠ .hunt → s.rxFix.argsHi = t.rxFix.argsHi
  fix_argsLo : (s.rxState = .fixed → 2 < s.rxIdx.toNat) → s.rxState ≠ .hunt → s.rxFix.argsLo = t.rxFix.argsLo
  fix_lenHi : (s.rxState = .fixed → 3 < s.rxIdx.toNat) → s.rxState ≠ .hunt → s.rxFix.lenHi = t.rxFix.lenHi
  rxLen : s.rxState = .body → s.rxLen = t.rxLen
  rcrc_hi : s.rxState = .body → s.rxLen.toNat < s.rxIdx.toNat → hiByte s.rxRcrc = hiByte t.rxRcrc
  rcrc_lo : s.rxState = .body → s.rxLen.toNat + 1 < s.rxIdx.toNat → loByte s.rxRcrc = loByte t.rxRcrc
  last : s.last = t.last
  rxHave : s.rxHave = t.rxHave
  rxDone : s.rxDone = t.rxDone
  rxOvr : s.rxOvr = t.rxOvr
  errCode : s.errCode = t.errCode
  held : s.held = t.held
  hostPort : s.hostPort = t.hostPort
  lineIn : s.lineIn = t.lineIn
  schedule : s.schedule = t.schedule
  draws : s.draws = t.draws

/-- `s` with the deserializer's state and the stand-alone `crc` of `r`. -/
def State.withRxOf (s r : State) : State :=
  { s with
    crc := r.crc, rxState := r.rxState, rxIdx := r.rxIdx, rxCrc := r.rxCrc, rxFix := r.rxFix, rxLen := r.rxLen,
    rxBuf := r.rxBuf, rxRcrc := r.rxRcrc, last := r.last, rxHave := r.rxHave, rxDone := r.rxDone, rxOvr := r.rxOvr }

/-- `s` with the serializer's state and the stand-alone `crc` of `r`. -/
def State.withTxOf (s r : State) : State :=
  { s with
    crc := r.crc, txState := r.txState, txRem := r.txRem, txCrc := r.txCrc, txQ := r.txQ, txWire := r.txWire,
    held := r.held }

/-- The instruction the host port takes this turn, if it takes one. -/
def State.taking (s : State) : Option Instr :=
  match s.schedule, s.held, s.hostPort with
  | .host :: _, none, item :: _ =>
    match decode item with
    | .ok i => some i
    | .error _ => none
  | _, _, _ => none

/-- The held operation the host's turn goes on with, if one holds. -/
def State.resuming (s : State) : Option HeldOp :=
  match s.schedule with
  | .host :: _ => s.held
  | _ => none

/-- The byte this turn delivers to the deserializer: the line-in's next one, or the host port's `RX_BYTE` (R155). -/
def State.delivering (s : State) : Option Byte :=
  match s.schedule with
  | .lineIn :: _ => s.lineIn.head?
  | _ =>
    match s.taking with
    | some (.rxByte b) => some b
    | _ => none

/-- The packet of a wire command issued in `s` (R190 to R195): its code, its arguments and its payload. A count above 65535 is
the free value `s` draws next (log 19). -/
def CommandPacket (s : State) (i : Instr) (cmd : Byte) (args : U16) (data : List Byte) : Prop :=
  match i with
  | .cmdUpdateEnd => cmd = 0x45 ∧ args = s.cfg.argsOther ∧ data = []
  | .cmdIntoBoot => cmd = 0x42 ∧ args = s.cfg.argsOther ∧ data = []
  | .cmdHandshake =>
    cmd = 0x0A ∧ args = s.cfg.argsOther ∧
      data = "BOOTLOADER_V3".toList.map (fun ch => BitVec.ofNat 8 ch.toNat) ++ (if s.cfg.hsPayloadNul then [0] else [])
  | .cmdCheckModelType model => cmd = 0x02 ∧ args = s.cfg.argsOther ∧ data = model
  | .cmdUpdateDataPackages total =>
    cmd = 0x04 ∧ args = s.cfg.argsOther ∧
      ∃ p : Nat, p = (if 65536 < total.toNat then (Config.freeWord s.draws).toNat
          else if 1 < total.toNat then total.toNat - 1 else total.toNat) ∧
        data = if s.cfg.pkgCountOrder = .be then [BitVec.ofNat 8 (p / 256), BitVec.ofNat 8 (p % 256)]
          else [BitVec.ofNat 8 (p % 256), BitVec.ofNat 8 (p / 256)]
  | .cmdUpdate seq chunk => cmd = 0x03 ∧ args = seq ∧ data = chunk.take 1024 ++ List.replicate (1024 - chunk.length) 0
  | .nop => False
  | .crcInit => False
  | .crcByte _ => False
  | .txStart _ _ _ => False
  | .txData _ => False
  | .txAbort => False
  | .rxByte _ => False
  | .rxAbort => False
  | .rxAck => False
  | .errClr => False

/-- Bytes delivered one by one as `RX_BYTE`. -/
def deliver (bytes : List Byte) (s : State) : Host.Outcome State Fault Refusal := execAll (asmFeed bytes) s

end Sys2Proof.Machine
end

