-- ==== Sys2Proof/Certificates/Slice0/Obligations.lean ====
section
/-! DEFINITION. The statements for the provers. Each docstring names the rule of spec/ it formalises. Results are written out
from the rules, not through the meanings' own helper functions, wherever the rule gives them in full. -/

open Sys2Proof Sys2Proof.Machine

/-! ### Encoding -/

/-- R86: the opcode map, as the words' numbers. -/
def Obligations.OperationWordsDecodeAsTabled : Prop :=
  decodeWord 0x000000000000 = .ok .nop ∧ decodeWord 0x010000000000 = .ok .crcInit ∧
  (∀ b : Byte, decodeWord (BitVec.ofNat 48 (0x020000000000 + b.toNat)) = .ok (.crcByte b)) ∧
  (∀ (cmd : Byte) (args len : U16),
    decodeWord (BitVec.ofNat 48 (0x100000000000 + cmd.toNat * 0x100000000 + args.toNat * 0x10000 + len.toNat)) =
      .ok (.txStart cmd args len)) ∧
  (∀ b : Byte, decodeWord (BitVec.ofNat 48 (0x110000000000 + b.toNat)) = .ok (.txData b)) ∧
  decodeWord 0x120000000000 = .ok .txAbort ∧
  (∀ b : Byte, decodeWord (BitVec.ofNat 48 (0x200000000000 + b.toNat)) = .ok (.rxByte b)) ∧
  decodeWord 0x210000000000 = .ok .rxAbort ∧ decodeWord 0x220000000000 = .ok .rxAck ∧
  decodeWord 0x300000000000 = .ok .errClr

/-- Decoding an encoded well-formed instruction gives it back (R85, R86, R92). The form of a request is the model's
(log 4), and so is which operands it may carry (logs 13, 19). -/
def Obligations.DecodeOfEncodeIsTheInstruction : Prop :=
  ∀ i : Instr, i.wf = true → decode (encode i) = .ok i

/-- Each form has one meaning: what decodes is well formed and encodes to the same form. (Requests: logs 4, 13, 19.) -/
def Obligations.EncodeOfDecodeIsTheForm : Prop :=
  ∀ (x : HostItem) (i : Instr), decode x = .ok i → i.wf = true ∧ encode i = x

/-- R88, R89, R90: which words are reserved, by their numbers, with the opcode checked before the reserved bits; every
other word is a defined operation. -/
def Obligations.EveryWordIsDefinedOrReserved : Prop :=
  ∀ w : OpWord,
    let op := w.toNat / 2 ^ 40
    let operand := w.toNat % 2 ^ 40
    ((0x03 ≤ op ∧ op ≤ 0x0F ∨ 0x13 ≤ op ∧ op ≤ 0x1F ∨ 0x23 ≤ op ∧ op ≤ 0x2F ∨ 0x31 ≤ op) →
      decodeWord w = .error .reservedOpcode) ∧
    (op ∈ [0x00, 0x01, 0x12, 0x21, 0x22, 0x30] →
      if operand = 0 then ∃ i, decodeWord w = .ok i else decodeWord w = .error .reservedBits) ∧
    (op ∈ [0x02, 0x11, 0x20] →
      if operand / 2 ^ 8 = 0 then ∃ i, decodeWord w = .ok i else decodeWord w = .error .reservedBits) ∧
    (op = 0x10 → ∃ i, decodeWord w = .ok i)

/-! ### The step -/

/-- A step at the host's turn on a free port runs the instruction its next form decodes to, with the form and the turn
consumed (R10, R68). -/
def Obligations.StepRunsTheDecodedForm : Prop :=
  ∀ (s : State) (sched : List Turn) (item : HostItem) (rest : List HostItem) (i : Instr),
    s.schedule = .host :: sched → s.held = none → s.hostPort = item :: rest → decode item = .ok i →
      step s = exec i { s with schedule := sched, hostPort := rest }

/-- R88 with R221: a word with a reserved opcode records code 1 if no error is recorded, and does nothing else. -/
def Obligations.ReservedOpcodeRecordsCodeOne : Prop :=
  ∀ (s : State) (sched : List Turn) (w : OpWord) (rest : List HostItem),
    s.schedule = .host :: sched → s.held = none → s.hostPort = .word w :: rest →
    opcodeField w ∉ [0x00#8, 0x01#8, 0x02#8, 0x10#8, 0x11#8, 0x12#8, 0x20#8, 0x21#8, 0x22#8, 0x30#8] →
      step s = .next { s with
        schedule := sched, hostPort := rest, errCode := if s.errCode = 0 then 1 else s.errCode }

/-- R89 with R221: a word of format Z or B with a reserved bit set records code 2 if no error is recorded, and does
nothing else, in every state (so before the operation's own state check). -/
def Obligations.ReservedBitsRecordCodeTwo : Prop :=
  ∀ (s : State) (sched : List Turn) (w : OpWord) (rest : List HostItem),
    s.schedule = .host :: sched → s.held = none → s.hostPort = .word w :: rest →
    (opcodeField w ∈ [0x00#8, 0x01#8, 0x12#8, 0x21#8, 0x22#8, 0x30#8] ∧ operandField w ≠ 0 ∨
      opcodeField w ∈ [0x02#8, 0x11#8, 0x20#8] ∧ reservedFieldB w ≠ 0) →
      step s = .next { s with
        schedule := sched, hostPort := rest, errCode := if s.errCode = 0 then 2 else s.errCode }

/-- R92: a request for a command code the source does not list, or with a number of operand bytes that is not the command's,
has no meaning, and the model stops by name. Every other request is an instruction, whatever its operands hold, a total
above 65536 (log 19) and more than 1024 file bytes (log 13) too. The operand layout is the model's (log 4). -/
def Obligations.RequestsWithoutAMeaningAreRefused : Prop :=
  ∀ (s : State) (sched : List Turn) (code : Byte) (operands : List Byte) (rest : List HostItem),
    s.schedule = .host :: sched → s.held = none → s.hostPort = .request code operands :: rest →
    (code ∉ [0x02#8, 0x03#8, 0x04#8, 0x0A#8, 0x42#8, 0x45#8] → step s = .refused (.unknownCommand code)) ∧
    (code = 0x02 → operands.length ≠ 32 → step s = .refused (.badOperands code)) ∧
    (code = 0x03 → operands.length < 2 → step s = .refused (.badOperands code)) ∧
    (code = 0x04 → operands.length ≠ 4 → step s = .refused (.badOperands code)) ∧
    (code ∈ [0x0A#8, 0x42#8, 0x45#8] → operands ≠ [] → step s = .refused (.badOperands code)) ∧
    ((code = 0x02 ∧ operands.length = 32 ∨ code = 0x03 ∧ 2 ≤ operands.length ∨ code = 0x04 ∧ operands.length = 4 ∨
        code ∈ [0x0A#8, 0x42#8, 0x45#8] ∧ operands = []) →
      ∃ i t, decode (.request code operands) = .ok i ∧ i.wf = true ∧ step s = .next t)

/-- R46, R227: over every step the error record changes only from 0 to a code of R220, or to 0 by `ERR_CLR` or `RESET`. -/
def Obligations.ErrorRecordKeepsTheFirst : Prop :=
  ∀ s t : State, step s = .next t → t.errCode ≠ s.errCode →
    (s.errCode = 0 ∧ t.errCode ∈ [1#3, 2#3, 3#3, 4#3]) ∨
    (t.errCode = 0 ∧ (s.schedule.head? = some .reset ∨ s.taking = some .errClr))

/-- The invariant holds at reset. -/
def Obligations.InvariantHoldsAtReset : Prop := Inv State.reset

/-- From every state that meets the invariant, a step gives a state that meets it (R34, R36, R39, R42 to R46). -/
def Obligations.StepKeepsTheInvariant : Prop :=
  ∀ s t : State, Inv s → step s = .next t → Inv t

/-- R226: no error stops the machine. While every request names a known command, a step has a next state, which again has
only such requests. (Requests, a total above 65536 and any number of file bytes among them, are the model's: logs 3, 4, 13,
19.) -/
def Obligations.StepAlwaysHasANextState : Prop :=
  ∀ s : State, s.RequestsOk → ∃ t, step s = .next t ∧ t.RequestsOk

/-- R240, R241: the `RESET` event. Every element R240 gives a value has it, `STATUS` and `TX_LEVEL` read 0, the
last-decoded registers are absent, a held word is dropped, and what was sent stays sent. -/
def Obligations.ResetEventSetsTheResetValues : Prop :=
  ∀ (s : State) (sched : List Turn), s.schedule = .reset :: sched →
    ∃ t, step s = .next t ∧
      t.crc = 0 ∧ t.txState = .idle ∧ t.txRem = 0 ∧ t.txCrc = 0 ∧ t.txQ = [] ∧ t.rxState = .hunt ∧ t.rxIdx = 0 ∧
      t.rxHave = false ∧ t.rxDone = false ∧ t.rxOvr = false ∧ t.last = none ∧ t.errCode = 0 ∧ t.held = none ∧
      readPort .status t = .ok (.word 0) ∧ readPort .txLevel t = .ok (.level 0) ∧
      (∀ p ∈ [ReadPort.lastCmd, .lastArgs, .lastLen, .lastRcrc, .lastCcrc, .lastTrailer],
        readPort p t = .error .lastAbsent) ∧
      (∀ i, readPort (.lastData i) t = .error .lastAbsent) ∧
      t.txWire = s.txWire ∧ t.cfg = s.cfg ∧ t.hostPort = s.hostPort ∧ t.lineIn = s.lineIn ∧ t.schedule = sched

/-- The state the model starts from has R240's values. -/
def Obligations.ResetStateHasTheResetValues : Prop :=
  State.reset.crc = 0 ∧ State.reset.txState = .idle ∧ State.reset.txRem = 0 ∧ State.reset.txCrc = 0 ∧
  State.reset.txQ = [] ∧ State.reset.rxState = .hunt ∧ State.reset.rxIdx = 0 ∧ State.reset.rxHave = false ∧
  State.reset.rxDone = false ∧ State.reset.rxOvr = false ∧ State.reset.last = none ∧ State.reset.errCode = 0 ∧
  State.reset.held = none ∧ State.reset.status = 0 ∧ State.reset.txWire = []

/-! ### The CRC-16 generator -/

/-- R110: `crc_step`, its shifts and masks written in arithmetic on numbers. -/
def Obligations.CrcStepFollowsTheAlgorithm : Prop :=
  ∀ (c : U16) (b : Byte),
    (crcStep c b).toNat =
      (List.range 8).foldl
        (fun v _ => if v / 0x8000 % 2 = 1 then (v * 2 % 0x10000) ^^^ 0x1021 else v * 2 % 0x10000)
        (c.toNat ^^^ (b.toNat * 256))

/-- R113, R114: `CRC_INIT` and `CRC_BYTE` complete from every state, writing `crc` alone; a word of theirs with a reserved bit
set leaves `crc` unchanged and records code 2 if no error is recorded. A zero byte from 0 leaves 0. -/
def Obligations.CrcOperationsWriteCrcOnly : Prop :=
  ∀ (s : State) (b : Byte),
    exec .crcInit s = .next { s with crc := 0 } ∧
    exec (.crcByte b) s = .next { s with crc := crcStep s.crc b } ∧
    crcStep 0 0 = 0 ∧
    (∀ w : OpWord, opcodeField w = 0x01 →
      acceptItem (.word w) s =
        if operandField w = 0 then exec .crcInit s
        else .next { s with errCode := if s.errCode = 0 then 2 else s.errCode }) ∧
    (∀ w : OpWord, opcodeField w = 0x02 →
      acceptItem (.word w) s =
        if reservedFieldB w = 0 then exec (.crcByte (byteField w)) s
        else .next { s with errCode := if s.errCode = 0 then 2 else s.errCode })

/-- R115: after `CRC_INIT` and one `CRC_BYTE` per byte, with any other instructions in between, `CRC_OUT` is the CRC of the
bytes. -/
def Obligations.CrcOutIsTheCrcOfTheBytes : Prop :=
  ∀ (bytes : List Byte) (is : List Instr) (s : State),
    is.filter (fun i => match i with | .crcInit => true | .crcByte _ => true | _ => false) = asmCrcBlock bytes →
      ∃ t, execAll is s = .next t ∧ readPort .crcOut t = .ok (.word (crc16 bytes))

/-- R112: a wide register masked once at the end gives the same CRC. -/
def Obligations.WideRegisterGivesTheSameCrc : Prop :=
  ∀ s : List Byte, crc16Wide s = (crc16 s).toNat

/-- R116, R117: the CRC is the remainder of the message times x^16 on division by x^16 + x^12 + x^5 + 1 over GF(2).
The spec marks the polynomial notation as general knowledge (41_crc.md R116, 93_implementation_defined.md G3). -/
def Obligations.CrcIsThePolynomialRemainder : Prop :=
  ∀ s : List Byte, ∃ q : Polynomial (ZMod 2),
    (s.foldl (fun p b => p * Polynomial.X ^ 8 +
        ∑ i ∈ Finset.range 8, if b.getLsbD i then Polynomial.X ^ i else 0) 0) * Polynomial.X ^ 16 =
      q * (Polynomial.X ^ 16 + Polynomial.X ^ 12 + Polynomial.X ^ 5 + 1) +
        ∑ i ∈ Finset.range 16, if (crc16 s).getLsbD i then Polynomial.X ^ i else 0

/-- R117: (a) the table form, (b) leading zeros, (c) the residue, (d) any one flipped bit changes the CRC. -/
def Obligations.CrcLawsOfTheSpec : Prop :=
  (∀ (c : U16) (b : Byte), crcStep c b = (c <<< 8) ^^^ crcStep 0 (hiByte c ^^^ b)) ∧
  (∀ (k : Nat) (s : List Byte), crc16 (List.replicate k 0 ++ s) = crc16 s) ∧
  (∀ s : List Byte, crc16 (s ++ [hiByte (crc16 s), loByte (crc16 s)]) = 0) ∧
  (∀ (s : List Byte) (i k : Nat), i < s.length → k < 8 →
    crc16 (s.modify i (fun b => b ^^^ BitVec.twoPow 8 k)) ≠ crc16 s)

/-! ### The serializer -/

/-- R133: `TX_START`. Busy: code 3 recorded if none is, nothing else. Idle with room: header and fixed fields emitted and
the frame opened, or the whole 9-byte frame for length 0. Idle without room: it holds, writing nothing (R136);
that a held word is a register, `held`, which the step fills is log 6 (DEDUCED). -/
def Obligations.TxStartEmitsHeaderAndFields : Prop :=
  ∀ (s : State) (cmd : Byte) (args len : U16),
    (∀ w : OpWord, opcodeField w = 0x10 → decodeWord w = .ok (.txStart (cmdField w) (argsField w) (lenField w))) ∧
    (s.txState = .data →
      exec (.txStart cmd args len) s = .next { s with errCode := if s.errCode = 0 then 3 else s.errCode }) ∧
    (s.txState = .idle → len = 0 → s.txQ.length + 9 ≤ s.cfg.txqCap →
      exec (.txStart cmd args len) s = .next { s with
        txCrc := crc16 [cmd, hiByte args, loByte args, 0, 0]
        txQ := s.txQ ++ [0xAA, cmd, hiByte args, loByte args, 0, 0, hiByte (crc16 [cmd, hiByte args, loByte args, 0, 0]),
          loByte (crc16 [cmd, hiByte args, loByte args, 0, 0]), 0x55]
        txState := .idle
        txRem := 0 }) ∧
    (s.txState = .idle → len ≠ 0 → s.txQ.length + 6 ≤ s.cfg.txqCap →
      exec (.txStart cmd args len) s = .next { s with
        txCrc := crc16 [cmd, hiByte args, loByte args, hiByte len, loByte len]
        txQ := s.txQ ++ [0xAA, cmd, hiByte args, loByte args, hiByte len, loByte len]
        txState := .data
        txRem := len }) ∧
    (s.txState = .idle → s.cfg.txqCap < s.txQ.length + (if len = 0 then 9 else 6) →
      exec (.txStart cmd args len) s = .next { s with held := some (.txStart cmd args len) })

/-- R134: `TX_DATA`. Idle: code 4 recorded if none is, nothing else. In a frame with room: the byte emitted, and with the
last one the tail. Without room: it holds, writing nothing (R136); that a held word is a register, `held`, which the step
fills is log 6 (DEDUCED). A word of its with a reserved bit set is rejected before any of that. A frame open owes at least
one byte, so the counter never wraps. -/
def Obligations.TxDataEmitsByteAndTail : Prop :=
  ∀ (s : State) (b : Byte),
    (∀ w : OpWord, opcodeField w = 0x11 →
      decodeWord w = if reservedFieldB w = 0 then .ok (.txData (byteField w)) else .error .reservedBits) ∧
    (s.txState = .idle →
      exec (.txData b) s = .next { s with errCode := if s.errCode = 0 then 4 else s.errCode }) ∧
    (s.txState = .data → s.txRem = 1 → s.txQ.length + 4 ≤ s.cfg.txqCap →
      exec (.txData b) s = .next { s with
        txCrc := crcStep s.txCrc b
        txQ := s.txQ ++ [b, hiByte (crcStep s.txCrc b), loByte (crcStep s.txCrc b), 0x55]
        txState := .idle
        txRem := 0 }) ∧
    (s.txState = .data → s.txRem ≠ 1 → s.txQ.length + 1 ≤ s.cfg.txqCap →
      exec (.txData b) s = .next { s with
        txCrc := crcStep s.txCrc b, txQ := s.txQ ++ [b], txRem := s.txRem - 1 }) ∧
    (s.txState = .data → s.cfg.txqCap < s.txQ.length + (if s.txRem = 1 then 4 else 1) →
      exec (.txData b) s = .next { s with held := some (.txData b) }) ∧
    (Inv s → s.txState = .data → 1 ≤ s.txRem.toNat)

/-- R138: `TX_ABORT` closes the frame and drops the queue; nothing else changes. -/
def Obligations.TxAbortDropsTheQueue : Prop :=
  ∀ s : State,
    exec .txAbort s = .next { s with txState := .idle, txRem := 0, txQ := [] } ∧
    (∀ w : OpWord, opcodeField w = 0x12 →
      acceptItem (.word w) s =
        if operandField w = 0 then exec .txAbort s
        else .next { s with errCode := if s.errCode = 0 then 2 else s.errCode })

/-- R136: while a held operation has too little room, the host's turn changes nothing and the port takes no later word.
(The held word as a register: log 6.) -/
def Obligations.HeldOperationBlocksThePort : Prop :=
  ∀ (s : State) (sched : List Turn), s.schedule = .host :: sched →
    (∀ cmd args len, s.held = some (.txStart cmd args len) →
      s.cfg.txqCap < s.txQ.length + (if len = 0 then 9 else 6) → step s = .next { s with schedule := sched }) ∧
    (∀ b, s.held = some (.txData b) →
      s.cfg.txqCap < s.txQ.length + (if s.txRem = 1 then 4 else 1) → step s = .next { s with schedule := sched })

/-- R136, R137: once there is room, the host's turn performs the held operation as it would have been performed when it was
presented, and the port is free. (The held word as a register, and no second check: log 6.) -/
def Obligations.HeldOperationPerformsWithRoom : Prop :=
  ∀ (s : State) (sched : List Turn), Inv s → s.schedule = .host :: sched →
    (∀ cmd args len, s.held = some (.txStart cmd args len) →
      s.txQ.length + (if len = 0 then 9 else 6) ≤ s.cfg.txqCap →
        ∃ t, step s = .next t ∧ exec (.txStart cmd args len) { s with schedule := sched, held := none } = .next t ∧
          t.held = none ∧ t.txQ ≠ s.txQ) ∧
    (∀ b, s.held = some (.txData b) →
      s.txQ.length + (if s.txRem = 1 then 4 else 1) ≤ s.cfg.txqCap →
        ∃ t, step s = .next t ∧ exec (.txData b) { s with schedule := sched, held := none } = .next t ∧
          t.held = none ∧ t.txQ ≠ s.txQ)

/-- R136: an operation needs at most 9 bytes and the queue has room for 9, so nine turns of the line-out lift any hold. -/
def Obligations.NineShiftsLiftAnyHold : Prop :=
  ∀ (s : State) (h : HeldOp) (sched : List Turn), Inv s → s.held = some h →
    s.schedule = List.replicate 9 .lineOut ++ .host :: sched →
      ∃ t, Host.Core.run core 10 s = .next t ∧ t.held = none

/-- R140: the line-out moves the head of the queue to the wire and nothing else. With an empty queue it has
no step; that its turn then passes, with only the turn consumed, is the model's choice (log 5, DESIGN CHOICE). -/
def Obligations.TxShiftMovesTheHead : Prop :=
  ∀ (s : State) (sched : List Turn), s.schedule = .lineOut :: sched →
    (∀ b q, s.txQ = b :: q → step s = .next { s with schedule := sched, txQ := q, txWire := s.txWire ++ [b] }) ∧
    (s.txQ = [] → step s = .next { s with schedule := sched })

/-- R69: over every step the wire only grows, and the bytes emitted so far stay emitted in their order, unless `TX_ABORT` or
`RESET` drops the queue. -/
def Obligations.WireIsFirstInFirstOut : Prop :=
  ∀ s t : State, step s = .next t →
    s.txWire <+: t.txWire ∧
    (s.emitted <+: t.emitted ∨
      (t.emitted = s.txWire ∧ (s.schedule.head? = some .reset ∨ s.taking = some .txAbort)))

/-- R135: the words of `SEND cmd, args, data`, with CRC, RX and control operations between them, emit `encode(cmd, args,
data)` and nothing else, in every interleaving of the agents without a reset: a prefix of it at every point, all of it
once the port has performed its words. -/
def Obligations.SerializerEmitsTheEncodedPacket : Prop :=
  ∀ (s : State) (is : List Instr) (cmd : Byte) (args : U16) (data frame : List Byte) (n : Nat),
    s.txState = .idle → s.held = none → s.hostPort = is.map encode →
    (∀ i ∈ is, i.isCommand = false) → is.filter Instr.isTx = sendInstrs cmd args data →
    encodePacket cmd args data = some frame → .reset ∉ s.schedule →
      ∃ t, Host.Core.run core n s = .next t ∧ s.emitted <+: t.emitted ∧ t.emitted <+: s.emitted ++ frame ∧
        (t.hostPort = [] → t.held = none → t.emitted = s.emitted ++ frame)

/-- R141: a serializer operation neither reads nor writes the deserializer's state or `crc`: it commutes with replacing
them. A deserializer operation likewise with the serializer's state. -/
def Obligations.SerializerAndDeserializerAreIndependent : Prop :=
  ∀ (i : Instr) (s r t : State), exec i s = .next t →
    (i.isTx = true → exec i (s.withRxOf r) = .next (t.withRxOf r)) ∧
    (i.isRx = true → exec i (s.withTxOf r) = .next (t.withTxOf r))

/-! ### The deserializer -/

/-- R156: `HUNT`. 0xAA starts a frame; any other byte changes nothing. -/
def Obligations.HuntAcceptsOnlyTheHeader : Prop :=
  ∀ (s : State) (b : Byte), s.rxState = .hunt →
    exec (.rxByte b) s =
      if b = 0xAA then .next { s with rxState := .fixed, rxIdx := 0, rxCrc := 0, rxBuf := [] } else .next s

/-- R157: `FIXED`. Each of the five bytes is stored in its place and fed to the CRC; the fifth latches the length,
high byte first, and opens `BODY`. -/
def Obligations.FixedCollectsFiveBytes : Prop :=
  ∀ (s : State) (b : Byte), s.rxState = .fixed →
    (s.rxIdx = 0 → exec (.rxByte b) s = .next { s with
      rxFix := { s.rxFix with cmd := b }, rxCrc := crcStep s.rxCrc b, rxIdx := 1 }) ∧
    (s.rxIdx = 1 → exec (.rxByte b) s = .next { s with
      rxFix := { s.rxFix with argsHi := b }, rxCrc := crcStep s.rxCrc b, rxIdx := 2 }) ∧
    (s.rxIdx = 2 → exec (.rxByte b) s = .next { s with
      rxFix := { s.rxFix with argsLo := b }, rxCrc := crcStep s.rxCrc b, rxIdx := 3 }) ∧
    (s.rxIdx = 3 → exec (.rxByte b) s = .next { s with
      rxFix := { s.rxFix with lenHi := b }, rxCrc := crcStep s.rxCrc b, rxIdx := 4 }) ∧
    (s.rxIdx = 4 → exec (.rxByte b) s = .next { s with
      rxFix := { s.rxFix with lenLo := b }, rxCrc := crcStep s.rxCrc b,
      rxLen := BitVec.ofNat 16 (s.rxFix.lenHi.toNat * 256 + b.toNat), rxState := .body, rxIdx := 0 })

/-- R158: `BODY` while `rx_idx < rx_len`: the byte is counted and fed to the CRC, and stored while there is capacity. -/
def Obligations.BodyCollectsData : Prop :=
  ∀ (s : State) (b : Byte), s.rxState = .body → s.rxIdx.toNat < s.rxLen.toNat →
    exec (.rxByte b) s = .next { s with
      rxBuf := if s.rxIdx.toNat < s.cfg.dataCap then s.rxBuf ++ [b] else s.rxBuf
      rxCrc := crcStep s.rxCrc b
      rxIdx := BitVec.ofNat 17 (s.rxIdx.toNat + 1) }

/-- R159: the two CRC bytes, high byte first, then the byte that ends the frame, whatever its value; none of the three is fed
to the CRC. -/
def Obligations.TailCollectsTheCrcField : Prop :=
  ∀ (s : State) (b : Byte), s.rxState = .body →
    (s.rxIdx.toNat = s.rxLen.toNat → exec (.rxByte b) s = .next { s with
      rxRcrc := BitVec.ofNat 16 (b.toNat * 256 + s.rxRcrc.toNat % 256)
      rxIdx := BitVec.ofNat 17 (s.rxIdx.toNat + 1) }) ∧
    (s.rxIdx.toNat = s.rxLen.toNat + 1 → exec (.rxByte b) s = .next { s with
      rxRcrc := BitVec.ofNat 16 (s.rxRcrc.toNat / 256 * 256 + b.toNat)
      rxIdx := BitVec.ofNat 17 (s.rxIdx.toNat + 1) }) ∧
    (s.rxIdx.toNat = s.rxLen.toNat + 2 → ∃ t p, exec (.rxByte b) s = .next t ∧ t.rxState = .hunt ∧ t.rxCrc = s.rxCrc ∧
      t.last = some p ∧ p.trailer = b ∧ p.rcrc = s.rxRcrc ∧ p.ccrc = s.rxCrc)

/-- R160: frame completion, on the byte at `rx_len + 2` whatever its value and whatever the CRC compare gives. Under the
invariant `min(rx_len, DATA_CAP)` data bytes are latched. -/
def Obligations.CompletionLatchesThePacket : Prop :=
  ∀ (s : State) (b : Byte), s.rxState = .body → s.rxIdx.toNat = s.rxLen.toNat + 2 →
    exec (.rxByte b) s = .next { s with
      last := some
        { cmd := s.rxFix.cmd
          args := BitVec.ofNat 16 (s.rxFix.argsHi.toNat * 256 + s.rxFix.argsLo.toNat)
          len := s.rxLen
          data := s.rxBuf
          rcrc := s.rxRcrc
          ccrc := s.rxCrc
          trailer := b
          verify := decide (s.rxRcrc = s.rxCrc)
          trlOk := decide (b = 0x55)
          trunc := decide (s.cfg.dataCap < s.rxLen.toNat) }
      rxOvr := s.rxOvr || s.rxDone
      rxDone := true
      rxHave := true
      rxState := .hunt
      rxIdx := 0 } ∧
    (Inv s → s.rxBuf.length = min s.rxLen.toNat s.cfg.dataCap)

/-- R161, R162: `RX_ABORT` and `RX_ACK` complete from every state and write nothing else; a word of theirs with a reserved
bit set records code 2 only. -/
def Obligations.RxAbortAndRxAckComplete : Prop :=
  ∀ s : State,
    exec .rxAbort s = .next { s with rxState := .hunt, rxIdx := 0 } ∧
    exec .rxAck s = .next { s with rxDone := false, rxOvr := false } ∧
    (∀ w : OpWord, opcodeField w = 0x21 →
      acceptItem (.word w) s =
        if operandField w = 0 then exec .rxAbort s
        else .next { s with errCode := if s.errCode = 0 then 2 else s.errCode }) ∧
    (∀ w : OpWord, opcodeField w = 0x22 →
      acceptItem (.word w) s =
        if operandField w = 0 then exec .rxAck s
        else .next { s with errCode := if s.errCode = 0 then 2 else s.errCode })

/-- R155: `RX_BYTE` completes in every state of the machine and never holds, on the line-in also while the host port holds,
and touches no transmit, CRC or error state. -/
def Obligations.RxByteNeverHolds : Prop :=
  ∀ (s : State) (b : Byte),
    (∃ t, exec (.rxByte b) s = .next t ∧ t.withRxOf s = s ∧ t.crc = s.crc) ∧
    (∀ sched rest, s.schedule = .lineIn :: sched → s.lineIn = b :: rest →
      step s = exec (.rxByte b) { s with schedule := sched, lineIn := rest }) ∧
    (∀ w : OpWord, opcodeField w = 0x20 →
      acceptItem (.word w) s =
        if reservedFieldB w = 0 then exec (.rxByte (byteField w)) s
        else .next { s with errCode := if s.errCode = 0 then 2 else s.errCode })

/-- R150: `decode` gives fields exactly for sequences of 9 + L bytes, L from bytes 4 and 5. -/
def Obligations.DecodeNeedsExactlyAFrame : Prop :=
  ∀ raw : List Byte,
    (raw.length < 6 → decodePacket raw = none) ∧
    (∀ l1 l0 : Byte, raw[4]? = some l1 → raw[5]? = some l0 →
      ((decodePacket raw).isSome ↔ raw.length = 9 + (l1.toNat * 256 + l0.toNat)))

/-- R152: replacing the last byte of a frame changes the decoded trailer and its compare, and nothing else. -/
def Obligations.TrailerTakesNoPartInVerify : Prop :=
  ∀ (raw : List Byte) (d : Decoded) (t : Byte), decodePacket raw = some d →
    decodePacket (raw.dropLast ++ [t]) = some { d with trailer := t, trlOk := decide (t = 0x55) }

/-- The source's round trip on whole sequences (R63, R130, R150). -/
def Obligations.DecodeOfEncodeIsThePacket : Prop :=
  ∀ (cmd : Byte) (args : U16) (data frame : List Byte), encodePacket cmd args data = some frame →
    frame.length = 9 + data.length ∧
    ∃ d, decodePacket frame = some d ∧ d.cmd = cmd ∧ d.args = args ∧ d.len.toNat = data.length ∧ d.data = data ∧
      d.verify = true ∧ d.trlOk = true

/-- R163: the bytes of an encoded packet, delivered from `HUNT`, complete a frame on the last byte with the packet's fields
and all checks good; no earlier byte completes one. -/
def Obligations.StreamedRoundTrip : Prop :=
  ∀ (s : State) (cmd : Byte) (args : U16) (data frame : List Byte),
    s.rxState = .hunt → data.length ≤ s.cfg.dataCap → encodePacket cmd args data = some frame →
      (∃ t p, deliver frame s = .next t ∧ t.last = some p ∧ p.cmd = cmd ∧ p.args = args ∧
        p.len.toNat = data.length ∧ p.data = data ∧ p.verify = true ∧ p.trlOk = true ∧ p.trunc = false ∧
        t.rxState = .hunt ∧ t.rxDone = true ∧ t.rxHave = true) ∧
      (∀ k, k < frame.length → ∃ t, deliver (frame.take k) s = .next t ∧ t.last = s.last ∧ t.rxDone = s.rxDone)

/-- R164: any sequence that starts with 0xAA and decodes, delivered from `HUNT` after noise without 0xAA, completes on its
last byte with `decode`'s fields, the data cut to `DATA_CAP`. -/
def Obligations.StreamAgreesWithDecode : Prop :=
  ∀ (s : State) (noise raw : List Byte) (d : Decoded),
    s.rxState = .hunt → (∀ b ∈ noise, b ≠ 0xAA) → raw.head? = some 0xAA → decodePacket raw = some d →
      (∃ t, deliver (noise ++ raw) s = .next t ∧ t.rxState = .hunt ∧ t.rxDone = true ∧
        t.last = some
          { cmd := d.cmd, args := d.args, len := d.len, data := d.data.take s.cfg.dataCap, rcrc := d.rcrc,
            ccrc := d.ccrc, trailer := d.trailer, verify := d.verify, trlOk := d.trlOk,
            trunc := decide (s.cfg.dataCap < d.len.toNat) }) ∧
      (∀ k, k < noise.length + raw.length →
        ∃ t, deliver ((noise ++ raw).take k) s = .next t ∧ t.last = s.last ∧ t.rxDone = s.rxDone)

/-- R165: from `HUNT` a frame takes its header, five bytes and exactly `L + 3` more, whatever they are: the sequencer is back
in `HUNT` after the last one and not before. -/
def Obligations.FrameTakesExactlyItsLength : Prop :=
  ∀ (s : State) (cmd a1 a0 l1 l0 : Byte) (body : List Byte),
    s.rxState = .hunt → body.length ≤ l1.toNat * 256 + l0.toNat + 3 →
      ∃ t, deliver ([0xAA, cmd, a1, a0, l1, l0] ++ body) s = .next t ∧
        (t.rxState = .hunt ↔ body.length = l1.toNat * 256 + l0.toNat + 3) ∧
        (t.rxState ≠ .hunt → t.rxState = .body ∧ t.last = s.last)

/-- R167: one flipped bit in `command`, `commandArgs` or the data of an encoded packet is seen as `verify = 0`. A flip in
`dataLength` gives no such guarantee: this packet's is seen as `verify = 1` (90_conflicts.md C3). -/
def Obligations.OneFlippedBitFailsVerify : Prop :=
  (∀ (s : State) (cmd : Byte) (args : U16) (data frame : List Byte) (i k : Nat),
    s.rxState = .hunt → encodePacket cmd args data = some frame →
    (1 ≤ i ∧ i ≤ 3 ∨ 6 ≤ i ∧ i < 6 + data.length) → k < 8 →
      ∃ t p, deliver (frame.modify i (fun b => b ^^^ BitVec.twoPow 8 k)) s = .next t ∧ t.last = some p ∧
        p.verify = false) ∧
  (∃ frame, encodePacket 0x42 0 [0x11, 0xD0, 0x71] = some frame ∧
    ∀ s : State, s.rxState = .hunt →
      ∃ t p, deliver (frame.modify 5 (fun b => b ^^^ BitVec.twoPow 8 1)) s = .next t ∧ t.last = some p ∧
        p.verify = true)

/-- R35, R40, R41: registers the spec calls unobservable are: two states that differ at most in them, one of which meets the
invariant, go on differing at most in them, and every read port reads the same. -/
def Obligations.UnspecifiedRegistersAreNeverSeen : Prop :=
  ∀ s t : State, Inv s → SameSeen s t →
    (∀ p, readPort p s = readPort p t) ∧
    (∀ s', step s = .next s' → ∃ t', step t = .next t' ∧ SameSeen s' t')

/-- R42, R47: over every step the last-decoded registers and the receive flags change only by a frame completion, `RX_ACK`
and `RESET`, as the table of R47 says. -/
def Obligations.ReceiveFlagsChangeAsTabled : Prop :=
  ∀ s t : State, step s = .next t →
    (s.schedule.head? = some .reset ∧
      t.last = none ∧ t.rxHave = false ∧ t.rxDone = false ∧ t.rxOvr = false) ∨
    (∃ b, s.delivering = some b ∧ s.rxState = .body ∧ s.rxLen.toNat + 2 ≤ s.rxIdx.toNat ∧
      (∃ p, t.last = some p ∧ p.verify = decide (s.rxRcrc = s.rxCrc) ∧ p.trlOk = decide (b = 0x55) ∧
        p.trunc = decide (s.cfg.dataCap < s.rxLen.toNat)) ∧
      t.rxHave = true ∧ t.rxDone = true ∧ t.rxOvr = (s.rxOvr || s.rxDone)) ∨
    (s.taking = some .rxAck ∧
      t.last = s.last ∧ t.rxHave = s.rxHave ∧ t.rxDone = false ∧ t.rxOvr = false) ∨
    (t.last = s.last ∧ t.rxHave = s.rxHave ∧ t.rxDone = s.rxDone ∧ t.rxOvr = s.rxOvr)

/-- R47: over every step of a machine that meets the invariant, `TX_BUSY` rises only by a `TX_START` with a length, and
falls only by the last `TX_DATA`, `TX_ABORT` or `RESET`. -/
def Obligations.TxBusyChangesAsTabled : Prop :=
  ∀ s t : State, Inv s → step s = .next t →
    (s.txBusy = false → t.txBusy = true →
      ∃ cmd args len, len ≠ 0 ∧ (s.resuming = some (.txStart cmd args len) ∨ s.taking = some (.txStart cmd args len))) ∧
    (s.txBusy = true → t.txBusy = false →
      s.schedule.head? = some .reset ∨ s.taking = some .txAbort ∨
      (s.txRem = 1 ∧ ∃ b, s.resuming = some (.txData b) ∨ s.taking = some (.txData b)))

/-! ### Control, status and read ports -/

/-- R180, R181: `NOP` changes nothing, `ERR_CLR` only the error record; a word of theirs with a reserved bit set records
code 2 if none is recorded, and changes nothing else. -/
def Obligations.NopAndErrClrComplete : Prop :=
  ∀ s : State,
    exec .nop s = .next s ∧ exec .errClr s = .next { s with errCode := 0 } ∧
    (∀ w : OpWord, opcodeField w = 0x00 →
      acceptItem (.word w) s =
        if operandField w = 0 then .next s
        else .next { s with errCode := if s.errCode = 0 then 2 else s.errCode }) ∧
    (∀ w : OpWord, opcodeField w = 0x30 →
      acceptItem (.word w) s =
        if operandField w = 0 then .next { s with errCode := 0 }
        else .next { s with errCode := if s.errCode = 0 then 2 else s.errCode })

/-- R49: the STATUS word, bit by bit; it is 0 after reset. -/
def Obligations.StatusWordLayout : Prop :=
  ∀ s : State,
    s.status.getLsbD 0 = s.rxDone ∧ s.status.getLsbD 1 = s.rxOvr ∧ s.status.getLsbD 2 = s.rxHave ∧
    (s.rxHave = false → s.status.extractLsb' 3 3 = 0) ∧
    (∀ p, s.rxHave = true → s.last = some p →
      s.status.getLsbD 3 = p.verify ∧ s.status.getLsbD 4 = p.trlOk ∧ s.status.getLsbD 5 = p.trunc) ∧
    (s.rxState = .hunt ↔ s.status.extractLsb' 6 2 = 0) ∧ (s.rxState = .fixed ↔ s.status.extractLsb' 6 2 = 1) ∧
    (s.rxState = .body ↔ s.status.extractLsb' 6 2 = 2) ∧ s.status.extractLsb' 6 2 ≠ 3 ∧
    (s.status.getLsbD 8 = true ↔ s.txState = .data) ∧ s.status.extractLsb' 9 3 = s.errCode ∧
    (Inv s → s.status.extractLsb' 9 3 ≤ 4) ∧ s.status.extractLsb' 12 4 = 0 ∧ s.applyReset.status = 0

/-- R42, R48, R166: the read ports, in a state that meets the invariant. A `LAST_*` read faults exactly while `rx_have` is 0,
and `BufRead(i)` gives the stored byte below `min(last_len, DATA_CAP)` and faults from there on. -/
def Obligations.ReadPortsShowTheState : Prop :=
  ∀ s : State, Inv s →
    readPort .crcOut s = .ok (.word s.crc) ∧ readPort .status s = .ok (.word s.status) ∧
    readPort .txLevel s = .ok (.level s.txQ.length) ∧ readPort .txRem s = .ok (.word s.txRem) ∧
    (s.rxHave = false →
      readPort .lastCmd s = .error .lastAbsent ∧ readPort .lastArgs s = .error .lastAbsent ∧
      readPort .lastLen s = .error .lastAbsent ∧ readPort .lastRcrc s = .error .lastAbsent ∧
      readPort .lastCcrc s = .error .lastAbsent ∧ readPort .lastTrailer s = .error .lastAbsent ∧
      ∀ i, readPort (.lastData i) s = .error .lastAbsent) ∧
    (s.rxHave = true → ∃ p, s.last = some p ∧
      readPort .lastCmd s = .ok (.byte p.cmd) ∧ readPort .lastArgs s = .ok (.word p.args) ∧
      readPort .lastLen s = .ok (.word p.len) ∧ readPort .lastRcrc s = .ok (.word p.rcrc) ∧
      readPort .lastCcrc s = .ok (.word p.ccrc) ∧ readPort .lastTrailer s = .ok (.byte p.trailer) ∧
      (∀ i, i < min p.len.toNat s.cfg.dataCap →
        ∃ b, p.data[i]? = some b ∧ readPort (.lastData i) s = .ok (.byte b)) ∧
      (∀ i, min p.len.toNat s.cfg.dataCap ≤ i → readPort (.lastData i) s = .error .bufIndexOutside))

/-! ### The packet vocabulary -/

/-- R190 to R195: a wire command's request completes from every state: the words of `SEND` for the command's packet stand
next on the host port, and nothing else changes, but that a total above 65536, for which R194 states no 2-byte count, draws
one free value for it (log 19, DESIGN CHOICE). The host port as a list of forms is the model's (log 3). -/
def Obligations.CommandRequestsIssueTheirPacket : Prop :=
  ∀ (s : State) (i : Instr) (cmd : Byte) (args : U16) (data : List Byte),
    i.wf = true → CommandPacket s i cmd args data →
      exec i s = .next { s with
        draws := match i with
          | .cmdUpdateDataPackages total => if 65536 < total.toNat then s.draws + 1 else s.draws
          | _ => s.draws
        hostPort := .word (wordS 0x10 cmd args (BitVec.ofNat 16 data.length)) ::
          (data.map (fun b => HostItem.word (wordB 0x11 b)) ++ s.hostPort) }

/-- Every wire command has such a packet, in every state. For a total above 65536, whose 2-byte count R194 does not state,
this is the model's choice (log 19, DESIGN CHOICE); for an empty chunk it is log 13 (DEDUCED). -/
def Obligations.EveryCommandHasAPacket : Prop :=
  ∀ (s : State) (i : Instr), i.wf = true → i.isCommand = true →
    ∃ cmd args data frame, CommandPacket s i cmd args data ∧ encodePacket cmd args data = some frame

/-- R190 to R195: a wire command's request, run from an idle serializer in any interleaving without a reset, emits that
command's encoded packet and nothing else. (Requests, schedule, port and the free count of a total above 65536 are the
model's: logs 3, 4, 5, 19. That `CMD_UPDATE` pads an empty chunk to 1024 zeros and sends the first 1024 of more file bytes is
log 13, DEDUCED.) -/
def Obligations.CommandRequestsEmitTheirPacket : Prop :=
  ∀ (s : State) (i : Instr) (cmd : Byte) (args : U16) (data frame : List Byte) (n : Nat),
    i.wf = true → CommandPacket s i cmd args data → encodePacket cmd args data = some frame →
    s.txState = .idle → s.held = none → s.hostPort = [encode i] → .reset ∉ s.schedule →
      ∃ t, Host.Core.run core n s = .next t ∧ s.emitted <+: t.emitted ∧ t.emitted <+: s.emitted ++ frame ∧
        (t.hostPort = [] → t.held = none → t.emitted = s.emitted ++ frame)

/-- The encoded examples of R190 to R195 and R198, all of them. -/
def Obligations.EncodedExamplesOfTheSpec : Prop :=
  encodePacket 0x45 0 [] = some [0xAA, 0x45, 0, 0, 0, 0, 0x32, 0x3F, 0x55] ∧
  encodePacket 0x42 0 [] = some [0xAA, 0x42, 0, 0, 0, 0, 0x55, 0xEB, 0x55] ∧
  encodePacket 0x0A 0 [0x42, 0x4F, 0x4F, 0x54, 0x4C, 0x4F, 0x41, 0x44, 0x45, 0x52, 0x5F, 0x56, 0x33] =
    some [0xAA, 0x0A, 0, 0, 0, 0x0D, 0x42, 0x4F, 0x4F, 0x54, 0x4C, 0x4F, 0x41, 0x44, 0x45, 0x52, 0x5F, 0x56, 0x33, 0x40, 0x34,
      0x55] ∧
  encodePacket 0x02 0 (List.replicate 32 0) =
    some ([0xAA, 0x02, 0, 0, 0, 0x20] ++ List.replicate 32 0 ++ [0x41, 0x27, 0x55]) ∧
  encodePacket 0x04 0 [0, 2] = some [0xAA, 0x04, 0, 0, 0, 2, 0, 2, 0x8F, 0xE4, 0x55] ∧
  encodePacket 0x04 0 [2, 0] = some [0xAA, 0x04, 0, 0, 0, 2, 2, 0, 0xC9, 0xC4, 0x55] ∧
  encodePacket 0x03 0 (List.replicate 1024 0) =
    some ([0xAA, 0x03, 0, 0, 4, 0] ++ List.replicate 1024 0 ++ [0x99, 0xC2, 0x55]) ∧
  encodePacket 0x02 0x00E6 [] = some [0xAA, 0x02, 0, 0xE6, 0, 0, 0x56, 0x12, 0x55]

/-- R196: the chunks of a file, padded, are `totalChunks` payloads of 1024 bytes that together are the file followed by
fewer than 1024 zero bytes. -/
def Obligations.ChunksReassembleTheFile : Prop :=
  ∀ file : List Byte,
    (∀ k, (chunkPayload (fileChunk file k)).length = 1024) ∧
    (∃ pad, pad < 1024 ∧
      ((List.range (totalChunks file.length)).map (fun k => chunkPayload (fileChunk file k))).flatten =
        file ++ List.replicate pad 0)

/-- R197, R198: the ACK and the six error codes, compared on all 16 bits; all errors but 0x00E2 are fatal; every other value
has no meaning. -/
def Obligations.RepliesAreReadFromTheArguments : Prop :=
  ∀ args : U16,
    (replyOf args = .ack ↔ args = 0x0006) ∧
    (replyOf args = .failed .handshakeCode ↔ args = 0x00E1) ∧
    (replyOf args = .failed .dataVerification ↔ args = 0x00E2) ∧
    (replyOf args = .failed .wrongAddress ↔ args = 0x00E3) ∧
    (replyOf args = .failed .flashWrite ↔ args = 0x00E4) ∧
    (replyOf args = .failed .commandError ↔ args = 0x00E5) ∧
    (replyOf args = .failed .modelMismatch ↔ args = 0x00E6) ∧
    (∀ e, replyOf args = .failed e → (e.fatal = false ↔ args = 0x00E2))

/-- R151, R200(a): the host acts on nothing but a completed frame whose received CRC equals the computed one. What the host
may act on, `hostReply`, and that it asks for `rx_done`, is log 18 (DESIGN CHOICE). -/
def Obligations.HostActsOnlyOnVerifiedPackets : Prop :=
  ∀ (s : State) (r : Reply), Inv s → s.hostReply = some r →
    s.rxDone = true ∧ ∃ p, s.last = some p ∧ p.rcrc = p.ccrc ∧ r = replyOf p.args
end

