-- ==== Sys2Proof/Laws/Operands.lean ====
section
/-! SUPPORT. What the operand fields, the format words and the big-endian joins are as numbers, and that they undo each
other. -/

namespace Sys2Proof.Machine

theorem shift_or_eq_add {a b k : Nat} (h : b < 2 ^ k) : a * 2 ^ k ||| b = a * 2 ^ k + b := by
  rw [Nat.mul_comm]; exact (Nat.two_pow_add_eq_or_of_lt h a).symm

theorem hiByte_toNat (x : U16) : (hiByte x).toNat = x.toNat / 256 := by
  have := x.isLt
  simp [hiByte, BitVec.extractLsb'_toNat, Nat.shiftRight_eq_div_pow]; omega

theorem loByte_toNat (x : U16) : (loByte x).toNat = x.toNat % 256 := by
  simp [loByte, BitVec.extractLsb'_toNat]

theorem joinBytes_toNat (h l : Byte) : (joinBytes h l).toNat = h.toNat * 256 + l.toNat := by
  have := h.isLt; have := l.isLt
  simp [joinBytes, Nat.shiftLeft_eq]
  rw [Nat.mod_eq_of_lt (a := h.toNat * _) (by omega), Nat.mod_eq_of_lt (a := l.toNat) (by omega)]
  exact shift_or_eq_add (k := 8) (by omega)

theorem joinWords_toNat (h l : U16) : (joinWords h l).toNat = h.toNat * 65536 + l.toNat := by
  have := h.isLt; have := l.isLt
  simp [joinWords, Nat.shiftLeft_eq]
  rw [Nat.mod_eq_of_lt (a := h.toNat * _) (by omega), Nat.mod_eq_of_lt (a := l.toNat) (by omega)]
  exact shift_or_eq_add (k := 16) (by omega)

@[simp] theorem joinBytes_hiByte_loByte (x : U16) : joinBytes (hiByte x) (loByte x) = x := by
  apply BitVec.eq_of_toNat_eq; rw [joinBytes_toNat, hiByte_toNat, loByte_toNat]; omega

@[simp] theorem hiByte_joinBytes (h l : Byte) : hiByte (joinBytes h l) = h := by
  apply BitVec.eq_of_toNat_eq; rw [hiByte_toNat, joinBytes_toNat]; omega

@[simp] theorem loByte_joinBytes (h l : Byte) : loByte (joinBytes h l) = l := by
  apply BitVec.eq_of_toNat_eq; rw [loByte_toNat, joinBytes_toNat]; omega

theorem opcodeField_toNat (w : OpWord) : (opcodeField w).toNat = w.toNat / 2 ^ 40 := by
  have := w.isLt
  simp [opcodeField, BitVec.extractLsb'_toNat, Nat.shiftRight_eq_div_pow]; omega

theorem operandField_toNat (w : OpWord) : (operandField w).toNat = w.toNat % 2 ^ 40 := by
  simp [operandField, BitVec.extractLsb'_toNat]

theorem reservedFieldB_toNat (w : OpWord) : (reservedFieldB w).toNat = w.toNat / 2 ^ 8 % 2 ^ 32 := by
  simp [reservedFieldB, BitVec.extractLsb'_toNat, Nat.shiftRight_eq_div_pow]

theorem byteField_toNat (w : OpWord) : (byteField w).toNat = w.toNat % 2 ^ 8 := by
  simp [byteField, BitVec.extractLsb'_toNat]

theorem cmdField_toNat (w : OpWord) : (cmdField w).toNat = w.toNat / 2 ^ 32 % 2 ^ 8 := by
  simp [cmdField, BitVec.extractLsb'_toNat, Nat.shiftRight_eq_div_pow]

theorem argsField_toNat (w : OpWord) : (argsField w).toNat = w.toNat / 2 ^ 16 % 2 ^ 16 := by
  simp [argsField, BitVec.extractLsb'_toNat, Nat.shiftRight_eq_div_pow]

theorem lenField_toNat (w : OpWord) : (lenField w).toNat = w.toNat % 2 ^ 16 := by
  simp [lenField, BitVec.extractLsb'_toNat]

theorem wordZ_toNat (op : Byte) : (wordZ op).toNat = op.toNat * 2 ^ 40 := by
  have := op.isLt
  simp [wordZ, Nat.shiftLeft_eq]; omega

theorem wordB_toNat (op b : Byte) : (wordB op b).toNat = op.toNat * 2 ^ 40 + b.toNat := by
  have := op.isLt; have := b.isLt
  simp [wordB, Nat.shiftLeft_eq]
  rw [Nat.mod_eq_of_lt (a := op.toNat * _) (by omega), Nat.mod_eq_of_lt (a := b.toNat) (by omega)]
  exact shift_or_eq_add (k := 40) (by omega)

theorem wordS_toNat (op cmd : Byte) (args len : U16) :
    (wordS op cmd args len).toNat = op.toNat * 2 ^ 40 + cmd.toNat * 2 ^ 32 + args.toNat * 2 ^ 16 + len.toNat := by
  have := op.isLt; have := cmd.isLt; have := args.isLt; have := len.isLt
  simp [wordS, Nat.shiftLeft_eq]
  rw [Nat.mod_eq_of_lt (a := op.toNat * _) (by omega), Nat.mod_eq_of_lt (a := cmd.toNat * _) (by omega),
    Nat.mod_eq_of_lt (a := args.toNat * _) (by omega), Nat.mod_eq_of_lt (a := len.toNat) (by omega),
    show 1099511627776 = 2 ^ 40 from rfl, shift_or_eq_add (k := 40) (by omega),
    show op.toNat * 2 ^ 40 + cmd.toNat * 4294967296 = (op.toNat * 256 + cmd.toNat) * 2 ^ 32 by omega,
    shift_or_eq_add (k := 32) (by omega),
    show (op.toNat * 256 + cmd.toNat) * 2 ^ 32 + args.toNat * 65536 =
      ((op.toNat * 256 + cmd.toNat) * 65536 + args.toNat) * 2 ^ 16 by omega,
    shift_or_eq_add (k := 16) (by omega)]

@[simp] theorem opcodeField_wordZ (op : Byte) : opcodeField (wordZ op) = op := by
  apply BitVec.eq_of_toNat_eq; rw [opcodeField_toNat, wordZ_toNat]; omega

@[simp] theorem operandField_wordZ (op : Byte) : operandField (wordZ op) = 0 := by
  apply BitVec.eq_of_toNat_eq; rw [operandField_toNat, wordZ_toNat]; simp

@[simp] theorem opcodeField_wordB (op b : Byte) : opcodeField (wordB op b) = op := by
  have := b.isLt
  apply BitVec.eq_of_toNat_eq; rw [opcodeField_toNat, wordB_toNat]; omega

@[simp] theorem reservedFieldB_wordB (op b : Byte) : reservedFieldB (wordB op b) = 0 := by
  have := b.isLt
  apply BitVec.eq_of_toNat_eq; rw [reservedFieldB_toNat, wordB_toNat]
  simp only [BitVec.ofNat_eq_ofNat, BitVec.toNat_ofNat]; omega

@[simp] theorem byteField_wordB (op b : Byte) : byteField (wordB op b) = b := by
  have := b.isLt
  apply BitVec.eq_of_toNat_eq; rw [byteField_toNat, wordB_toNat]; omega

@[simp] theorem opcodeField_wordS (op cmd : Byte) (args len : U16) : opcodeField (wordS op cmd args len) = op := by
  have := cmd.isLt; have := args.isLt; have := len.isLt
  apply BitVec.eq_of_toNat_eq; rw [opcodeField_toNat, wordS_toNat]; omega

@[simp] theorem cmdField_wordS (op cmd : Byte) (args len : U16) : cmdField (wordS op cmd args len) = cmd := by
  have := cmd.isLt; have := args.isLt; have := len.isLt
  apply BitVec.eq_of_toNat_eq; rw [cmdField_toNat, wordS_toNat]; omega

@[simp] theorem argsField_wordS (op cmd : Byte) (args len : U16) : argsField (wordS op cmd args len) = args := by
  have := args.isLt; have := len.isLt
  apply BitVec.eq_of_toNat_eq; rw [argsField_toNat, wordS_toNat]; omega

@[simp] theorem lenField_wordS (op cmd : Byte) (args len : U16) : lenField (wordS op cmd args len) = len := by
  have := len.isLt
  apply BitVec.eq_of_toNat_eq; rw [lenField_toNat, wordS_toNat]; omega

theorem wordZ_of_fields {w : OpWord} {n : Nat} (ho : (opcodeField w).toNat = n) (h : operandField w = 0) :
    wordZ (BitVec.ofNat 8 n) = w := by
  apply BitVec.eq_of_toNat_eq
  have h2 := congrArg BitVec.toNat h
  have h3 := (opcodeField w).isLt
  rw [operandField_toNat] at h2; rw [opcodeField_toNat] at ho h3
  rw [wordZ_toNat]; simp at h2 ⊢; omega

theorem wordB_of_fields {w : OpWord} {n : Nat} (ho : (opcodeField w).toNat = n) (h : reservedFieldB w = 0) :
    wordB (BitVec.ofNat 8 n) (byteField w) = w := by
  apply BitVec.eq_of_toNat_eq
  have h2 := congrArg BitVec.toNat h
  have h3 := (opcodeField w).isLt
  rw [reservedFieldB_toNat] at h2; rw [opcodeField_toNat] at ho h3
  rw [wordB_toNat, byteField_toNat]; simp at h2 ⊢; omega

theorem wordS_of_fields {w : OpWord} {n : Nat} (ho : (opcodeField w).toNat = n) :
    wordS (BitVec.ofNat 8 n) (cmdField w) (argsField w) (lenField w) = w := by
  apply BitVec.eq_of_toNat_eq
  have h3 := (opcodeField w).isLt
  rw [opcodeField_toNat] at ho h3
  rw [wordS_toNat, cmdField_toNat, argsField_toNat, lenField_toNat]; simp; omega

/-- What format `Z` decoding accepts. -/
theorem decodeZ_ok {i j : Instr} {w : OpWord} (h : decodeZ i w = .ok j) : operandField w = 0 ∧ i = j := by
  unfold decodeZ at h; split at h <;> simp_all

/-- What format `B` decoding accepts. -/
theorem decodeB_ok {f : Byte → Instr} {j : Instr} {w : OpWord} (h : decodeB f w = .ok j) :
    reservedFieldB w = 0 ∧ f (byteField w) = j := by
  unfold decodeB at h; split at h <;> simp_all

/-- What a request's check accepts. -/
theorem checkRequest_ok {c : Byte} {i j : Instr} (h : checkRequest c i = .ok j) : i.wf = true ∧ i = j := by
  unfold checkRequest at h; split at h <;> simp_all

end Sys2Proof.Machine
end

