-- ==== Sys2Proof/Laws/Crc.lean ====
section
/-! SUPPORT. The CRC step as a linear map: it distributes over XOR and loses nothing, in the state and in the byte. -/

namespace Sys2Proof.Machine

/-- Splitting a CRC over a cut of the message. -/
theorem crc16_append (s t : List Byte) : crc16 (s ++ t) = crc16From (crc16 s) t := by simp [crc16, crc16From]

theorem crcShift_xor (v w : U16) : crcShift (v ^^^ w) = crcShift v ^^^ crcShift w := by
  have e : v <<< 1 ^^^ crcPoly ^^^ (w <<< 1 ^^^ crcPoly) = v <<< 1 ^^^ w <<< 1 ^^^ (crcPoly ^^^ crcPoly) := by ac_rfl
  unfold crcShift
  rw [BitVec.getLsbD_xor, BitVec.shiftLeft_xor_distrib]
  cases v.getLsbD 15 <;> cases w.getLsbD 15
  · rfl
  · show _ ^^^ _ ^^^ crcPoly = _ ^^^ (_ ^^^ crcPoly); ac_rfl
  · show v <<< 1 ^^^ w <<< 1 ^^^ crcPoly = (v <<< 1 ^^^ crcPoly) ^^^ w <<< 1; ac_rfl
  · show _ = v <<< 1 ^^^ crcPoly ^^^ (w <<< 1 ^^^ crcPoly); rw [e]; simp

theorem crcShifts_xor (n : Nat) (v w : U16) : crcShifts n (v ^^^ w) = crcShifts n v ^^^ crcShifts n w := by
  induction n generalizing v w with
  | zero => rfl
  | succ n ih => simp only [crcShifts, crcShift_xor, ih]

/-- Eight shifts of a low byte meet no feedback. -/
theorem crcShifts_low_byte : ∀ b : Byte, crcShifts 8 (joinBytes 0 b) = joinBytes b 0 := by decide +kernel

/-- The polynomial's bit 0 records the bit shifted out. -/
theorem crcShift_bit_zero (v : U16) : (crcShift v).getLsbD 0 = v.getLsbD 15 := by
  unfold crcShift; cases h : v.getLsbD 15 <;> simp [crcPoly]

theorem crcShift_injective {v w : U16} (h : crcShift v = crcShift w) : v = w := by
  have h1 : v.getLsbD 15 = w.getLsbD 15 := by rw [← crcShift_bit_zero, ← crcShift_bit_zero, h]
  have h2 : v <<< 1 = w <<< 1 := by
    unfold crcShift at h; rw [h1] at h; split at h
    · exact (BitVec.xor_left_inj _).1 h
    · exact h
  apply BitVec.eq_of_getLsbD_eq
  intro i hi
  by_cases h15 : i = 15
  · rw [h15, h1]
  · have := congrArg (fun x => x.getLsbD (i + 1)) h2
    simp at this; grind

theorem crcShifts_injective {n : Nat} {v w : U16} (h : crcShifts n v = crcShifts n w) : v = w := by
  induction n generalizing v w with
  | zero => exact h
  | succ n ih => exact crcShift_injective (ih h)

theorem crcStep_injective_left {c d : U16} {b : Byte} (h : crcStep c b = crcStep d b) : c = d :=
  (BitVec.xor_left_inj _).1 (crcShifts_injective h)

theorem crcStep_injective_right {c : U16} {a b : Byte} (h : crcStep c a = crcStep c b) : a = b := by
  simpa using congrArg hiByte ((BitVec.xor_right_inj _).1 (crcShifts_injective h))

theorem crc16From_injective {s : List Byte} {c d : U16} (h : crc16From c s = crc16From d s) : c = d := by
  induction s generalizing c d with
  | nil => exact h
  | cons b s ih => exact crcStep_injective_left (ih h)

/-- Zero bytes in two runs, through the value between them. -/
theorem crc16From_zeros {c e : U16} (d : U16) {m n : Nat} (h : crc16From c (List.replicate m 0) = d)
    (h' : crc16From d (List.replicate n 0) = e) : crc16From c (List.replicate (m + n) 0) = e := by
  rw [← h', ← h]; simp only [crc16From, List.replicate_add, List.foldl_append]

/-- 256 zero bytes as four runs of 64, which the kernel evaluates. -/
theorem crc16From_zeros_256 {c e : U16} (d₁ d₂ d₃ : U16) (h₁ : crc16From c (List.replicate 64 0) = d₁)
    (h₂ : crc16From d₁ (List.replicate 64 0) = d₂) (h₃ : crc16From d₂ (List.replicate 64 0) = d₃)
    (h₄ : crc16From d₃ (List.replicate 64 0) = e) : crc16From c (List.replicate 256 0) = e :=
  crc16From_zeros (m := 64) (n := 192) d₁ h₁
    (crc16From_zeros (m := 64) (n := 128) d₂ h₂ (crc16From_zeros (m := 64) (n := 64) d₃ h₃ h₄))

/-- The CRC of R195's chunk of zeros, sequence number 0. -/
theorem crc16_zero_chunk : crc16 ([3, 0, 0, 4, 0] ++ List.replicate 1024 0) = 0x99C2 := by
  rw [crc16_append, show crc16 [3, 0, 0, 4, 0] = 0x2216 by decide +kernel,
    show (1024 : Nat) = 256 + (256 + (256 + 256)) from rfl]
  refine crc16From_zeros 0xD1C4 (crc16From_zeros_256 0x8276 0xBF63 0x9436 ?_ ?_ ?_ ?_) <|
    crc16From_zeros 0x94FC (crc16From_zeros_256 0x13FF 0x02C0 0x7C28 ?_ ?_ ?_ ?_) <|
    crc16From_zeros 0xA82B (crc16From_zeros_256 0xB971 0x7981 0xBF72 ?_ ?_ ?_ ?_)
      (crc16From_zeros_256 0xBB23 0x6299 0xDB7F ?_ ?_ ?_ ?_) <;> decide +kernel

end Sys2Proof.Machine
end

