-- ==== Sys2Proof/Laws/Step.lean ====
section
/-! SUPPORT. Said once: what a step can do (`step_cases`), and that every instruction answers a next state. -/

namespace Sys2Proof.Machine

/-- The ways a step answers a next state. `s` is the state before, `t` after. -/
inductive StepCase (s t : State) : Prop where
  | idle (hs : s.schedule = []) (ht : t = s)
  | shift (sched : List Turn) (hs : s.schedule = .lineOut :: sched) (ht : t = State.txShift { s with schedule := sched })
  | reset (sched : List Turn) (hs : s.schedule = .reset :: sched)
      (ht : t = State.applyReset { s with schedule := sched })
  | noByte (sched : List Turn) (hs : s.schedule = .lineIn :: sched) (hl : s.lineIn = [])
      (ht : t = { s with schedule := sched })
  | byte (sched : List Turn) (b : Byte) (rest : List Byte) (hs : s.schedule = .lineIn :: sched)
      (hl : s.lineIn = b :: rest) (ht : t = rxDeliver b { s with schedule := sched, lineIn := rest })
  | resume (sched : List Turn) (h : HeldOp) (hs : s.schedule = .host :: sched) (hh : s.held = some h)
      (ht : t = resumeHeld h { s with schedule := sched })
  | noForm (sched : List Turn) (hs : s.schedule = .host :: sched) (hh : s.held = none) (hp : s.hostPort = [])
      (ht : t = { s with schedule := sched })
  | run (sched : List Turn) (item : HostItem) (rest : List HostItem) (i : Instr) (hs : s.schedule = .host :: sched)
      (hh : s.held = none) (hp : s.hostPort = item :: rest) (hd : decode item = .ok i)
      (ht : exec i { s with schedule := sched, hostPort := rest } = .next t)
  | reservedOpcode (sched : List Turn) (item : HostItem) (rest : List HostItem) (hs : s.schedule = .host :: sched)
      (hh : s.held = none) (hp : s.hostPort = item :: rest) (hd : decode item = .error .reservedOpcode)
      (ht : t = State.raise .rsvOp { s with schedule := sched, hostPort := rest })
  | reservedBits (sched : List Turn) (item : HostItem) (rest : List HostItem) (hs : s.schedule = .host :: sched)
      (hh : s.held = none) (hp : s.hostPort = item :: rest) (hd : decode item = .error .reservedBits)
      (ht : t = State.raise .rsvBits { s with schedule := sched, hostPort := rest })

theorem step_cases {s t : State} (h : step s = .next t) : StepCase s t := by
  unfold step at h
  split at h
  next hs => cases h; exact .idle hs rfl
  next turn sched hs =>
    cases turn with
    | lineOut => cases h; exact .shift sched hs rfl
    | reset => cases h; exact .reset sched hs rfl
    | lineIn =>
      simp only [takeTurn, lineInStep] at h
      split at h
      next hl => cases h; exact .noByte sched hs hl rfl
      next b rest hl => cases h; exact .byte sched b rest hs hl rfl
    | host =>
      simp only [takeTurn, hostStep] at h
      split at h
      next o hh => cases h; exact .resume sched o hs hh rfl
      next hh =>
        split at h
        next hp => cases h; exact .noForm sched hs hh hp rfl
        next item rest hp =>
          simp only [acceptItem] at h
          split at h
          next i hd => exact .run sched item rest i hs hh hp hd h
          next r hd =>
            cases r with
            | reservedOpcode => cases h; exact .reservedOpcode sched item rest hs hh hp hd rfl
            | reservedBits => cases h; exact .reservedBits sched item rest hs hh hp hd rfl
            | unknownCommand c => cases h
            | badOperands c => cases h

/-- Every instruction answers a next state, in every state. -/
theorem exec_next (i : Instr) (s : State) : ∃ t, exec i s = .next t := by
  cases i with
  | txStart cmd args len => simp only [exec, execTxStart]; split <;> exact ⟨_, rfl⟩
  | txData b => simp only [exec, execTxData]; split <;> exact ⟨_, rfl⟩
  | _ => exact ⟨_, rfl⟩

/-- Instructions in a row answer a next state. -/
theorem execAll_next (is : List Instr) (s : State) : ∃ t, execAll is s = .next t := by
  induction is generalizing s with
  | nil => exact ⟨s, rfl⟩
  | cons i is ih =>
    obtain ⟨t, ht⟩ := exec_next i s
    obtain ⟨u, hu⟩ := ih t
    exact ⟨u, by simp only [execAll, ht, hu]⟩

/-- A row of instructions splits where it is cut. -/
theorem execAll_append (is js : List Instr) (s t : State) (h : execAll is s = .next t) :
    execAll (is ++ js) s = execAll js t := by
  induction is generalizing s with
  | nil => cases h; rfl
  | cons i is ih =>
    obtain ⟨u, hu⟩ := exec_next i s
    simp only [execAll, hu, List.cons_append] at h ⊢
    exact ih u h

end Sys2Proof.Machine
end

