-- ==== Sys2Proof/Laws/Deserializer.lean ====
section
/-! SUPPORT. The deserializer's byte, said once as the explicit states it can answer, and what runs of bytes do: the fixed
fields, the data bytes, the frame's end. -/

namespace Sys2Proof.Machine

/-- What one received byte does, state by state (R156 to R160). -/
theorem rxDeliver_cases (b : Byte) (s : State) :
    (s.rxState = .hunt ∧ b ≠ 0xAA ∧ rxDeliver b s = s) ∨
    (s.rxState = .hunt ∧ b = 0xAA ∧
      rxDeliver b s = { s with rxState := .fixed, rxIdx := 0, rxCrc := 0, rxBuf := [] }) ∨
    (s.rxState = .fixed ∧ s.rxIdx ≠ 4 ∧
      rxDeliver b s = { s with
        rxFix := s.rxFix.set s.rxIdx.toNat b, rxCrc := crcStep s.rxCrc b, rxIdx := s.rxIdx + 1 }) ∨
    (s.rxState = .fixed ∧ s.rxIdx = 4 ∧
      rxDeliver b s = { s with
        rxFix := { s.rxFix with lenLo := b }, rxCrc := crcStep s.rxCrc b,
        rxLen := joinBytes s.rxFix.lenHi b, rxState := .body, rxIdx := 0 }) ∨
    (s.rxState = .body ∧ s.rxIdx.toNat < s.rxLen.toNat ∧
      rxDeliver b s = { s with
        rxBuf := if s.rxIdx.toNat < s.cfg.dataCap then s.rxBuf ++ [b] else s.rxBuf,
        rxCrc := crcStep s.rxCrc b, rxIdx := s.rxIdx + 1 }) ∨
    (s.rxState = .body ∧ s.rxIdx.toNat = s.rxLen.toNat ∧
      rxDeliver b s = { s with rxRcrc := joinBytes b (loByte s.rxRcrc), rxIdx := s.rxIdx + 1 }) ∨
    (s.rxState = .body ∧ s.rxIdx.toNat = s.rxLen.toNat + 1 ∧
      rxDeliver b s = { s with rxRcrc := joinBytes (hiByte s.rxRcrc) b, rxIdx := s.rxIdx + 1 }) ∨
    (s.rxState = .body ∧ s.rxLen.toNat + 2 ≤ s.rxIdx.toNat ∧ rxDeliver b s = rxComplete b s) := by
  unfold rxDeliver
  split
  next hs =>
    by_cases hb : b = 0xAA
    · exact .inr (.inl ⟨hs, hb, by simp [rxHunt, hb, Config.header]⟩)
    · exact .inl ⟨hs, hb, if_neg hb⟩
  next hs =>
    by_cases hi : s.rxIdx = 4
    · exact .inr (.inr (.inr (.inl ⟨hs, hi, by simp [rxFixed, hi, RxFix.set]⟩)))
    · exact .inr (.inr (.inl ⟨hs, hi, if_neg hi⟩))
  next hs =>
    by_cases h1 : s.rxIdx.toNat < s.rxLen.toNat
    · exact .inr (.inr (.inr (.inr (.inl ⟨hs, h1, by simp [h1, rxData]⟩))))
    by_cases h2 : s.rxIdx.toNat = s.rxLen.toNat
    · exact .inr (.inr (.inr (.inr (.inr (.inl ⟨hs, h2, by simp [h2, rxTail]⟩)))))
    by_cases h3 : s.rxIdx.toNat = s.rxLen.toNat + 1
    · exact .inr (.inr (.inr (.inr (.inr (.inr (.inl ⟨hs, h3, by simp [h3, rxTail]⟩))))))
    exact .inr (.inr (.inr (.inr (.inr (.inr (.inr ⟨hs, by omega, by simp [h1, h2, h3, rxTail]⟩))))))

/-- A delivery splits where it is cut. -/
theorem deliver_append {a b : List Byte} {s t : State} (h : deliver a s = .next t) : deliver (a ++ b) s = deliver b t := by
  unfold deliver asmFeed at *
  rw [List.map_append]; exact execAll_append _ _ _ _ h

/-- Noise in `HUNT` changes nothing. -/
theorem deliver_noise (s : State) (h : s.rxState = .hunt) (bs : List Byte) (hb : ∀ b ∈ bs, b ≠ 0xAA) :
    deliver bs s = .next s := by
  induction bs with
  | nil => rfl
  | cons b bs ih =>
    have e : rxDeliver b s = s := by simp only [rxDeliver, h, rxHunt]; exact if_neg (hb b (by simp))
    show deliver bs (rxDeliver b s) = _
    rw [e]; exact ih fun c hc => hb c (by simp [hc])

/-- From `HUNT`, the header and the five fixed bytes open the body. -/
theorem deliver_fixed (s : State) (cmd a1 a0 l1 l0 : Byte) (h : s.rxState = .hunt) :
    deliver [0xAA, cmd, a1, a0, l1, l0] s = .next { s with
      rxState := .body, rxIdx := 0, rxCrc := crc16 [cmd, a1, a0, l1, l0], rxFix := ⟨cmd, a1, a0, l1, l0⟩,
      rxLen := joinBytes l1 l0, rxBuf := [] } := by
  obtain ⟨⟩ := s; simp only at h; subst h; rfl

/-- In the body, `ds` after the data bytes `pre`. -/
theorem deliver_data (ds pre : List Byte) (s : State) (h : s.rxState = .body) (hi : s.rxIdx.toNat = pre.length)
    (hb : s.rxBuf = pre.take s.cfg.dataCap) (hl : pre.length + ds.length ≤ s.rxLen.toNat) :
    deliver ds s = .next { s with
      rxIdx := BitVec.ofNat 17 (pre.length + ds.length), rxCrc := crc16From s.rxCrc ds,
      rxBuf := (pre ++ ds).take s.cfg.dataCap } := by
  induction ds generalizing s pre with
  | nil =>
    show Host.Outcome.next s = _
    simp [← hi, ← hb, crc16From]
  | cons d ds ih =>
    simp only [List.length_cons] at hl
    have hlt := s.rxLen.isLt
    have e : rxDeliver d s = { s with
        rxBuf := (pre ++ [d]).take s.cfg.dataCap, rxCrc := crcStep s.rxCrc d, rxIdx := s.rxIdx + 1 } := by
      simp only [rxDeliver, h, hi, show pre.length < s.rxLen.toNat by omega, if_true, rxData, hb]
      congr 1
      split
      · rw [List.take_of_length_le (by omega), List.take_of_length_le (by simp; omega)]
      · rw [List.take_append_of_le_length (by omega)]
    show deliver ds (rxDeliver d s) = _
    rw [ih (pre ++ [d]) (rxDeliver d s) (by rw [e]; exact h) (by rw [e]; simp [hi]; omega) (by rw [e])
      (by rw [e]; simp; omega), e]
    simp [crc16From]; congr 1; omega

/-- After the data bytes: the two CRC bytes, and completion on the byte after them. -/
theorem deliver_tail (c1 c0 t : Byte) (s : State) (h : s.rxState = .body) (hi : s.rxIdx.toNat = s.rxLen.toNat) :
    deliver [c1] s = .next { s with
      rxRcrc := joinBytes c1 (loByte s.rxRcrc), rxIdx := BitVec.ofNat 17 (s.rxLen.toNat + 1) } ∧
    deliver [c1, c0] s = .next { s with rxRcrc := joinBytes c1 c0, rxIdx := BitVec.ofNat 17 (s.rxLen.toNat + 2) } ∧
    deliver [c1, c0, t] s = .next (rxComplete t { s with rxRcrc := joinBytes c1 c0 }) := by
  have hlt := s.rxLen.isLt
  have e1 : rxDeliver c1 s = { s with
      rxRcrc := joinBytes c1 (loByte s.rxRcrc), rxIdx := BitVec.ofNat 17 (s.rxLen.toNat + 1) } := by
    have : s.rxIdx + 1 = BitVec.ofNat 17 (s.rxLen.toNat + 1) := by apply BitVec.eq_of_toNat_eq; simp [hi]
    simp only [rxDeliver, h, hi, rxTail, Nat.lt_irrefl, if_false, if_true, this]
  have e2 : rxDeliver c0 (rxDeliver c1 s) = { s with
      rxRcrc := joinBytes c1 c0, rxIdx := BitVec.ofNat 17 (s.rxLen.toNat + 2) } := by
    have m : (s.rxLen.toNat + 1) % 131072 = s.rxLen.toNat + 1 := by omega
    rw [e1]; simp [rxDeliver, h, rxTail, m]
    apply BitVec.eq_of_toNat_eq; simp
  refine ⟨congrArg _ e1, congrArg _ e2, ?_⟩
  show Host.Outcome.next (rxDeliver t (rxDeliver c0 (rxDeliver c1 s))) = _
  have m : (s.rxLen.toNat + 2) % 131072 = s.rxLen.toNat + 2 := by omega
  rw [e2]; simp [rxDeliver, h, rxTail, m, rxComplete, completedPacket]

end Sys2Proof.Machine
end

