-- ==== Sys2Proof/Laws/Ops.lean ====
section
/-! SUPPORT. What each shared operation of Machine/Ops.lean does, said once, as an explicit state, and what the read ports find of
the last decoded packet. -/

namespace Sys2Proof.Machine

/-- All that recording an error does (R221). -/
theorem raise_eq (e : OpError) (s : State) :
    s.raise e = { s with errCode := if s.errCode = 0 then e.code else s.errCode } := by
  unfold State.raise; split <;> simp_all

theorem OpError.code_ne_zero (e : OpError) : e.code ≠ 0 := by cases e <;> decide

theorem OpError.code_le (e : OpError) : e.code.toNat ≤ 4 := by cases e <;> decide

/-- Room is a comparison of numbers (R136). -/
theorem hasRoom_iff (n : Nat) (s : State) : s.hasRoom n = true ↔ s.txQ.length + n ≤ s.cfg.txqCap := by
  simp [State.hasRoom]

theorem hasRoom_false_iff (n : Nat) (s : State) : s.hasRoom n = false ↔ s.cfg.txqCap < s.txQ.length + n := by
  simp [State.hasRoom]

/-- All that the line-out's step does (R140). -/
theorem txShift_eq (s : State) :
    s.txShift = { s with txQ := s.txQ.tail, txWire := s.txWire ++ s.txQ.head?.toList } := by
  cases h : s.txQ <;> simp [State.txShift, h]
  cases s; simp_all

/-- Absent while `rx_have` is 0 (R42). -/
theorem lastDecoded_absent {s : State} (h : s.rxHave = false) : s.lastDecoded = .error .lastAbsent := by
  simp [State.lastDecoded, h]

/-- The packet while `rx_have` is 1 (R42, R43). -/
theorem lastDecoded_have {s : State} {p : LastPacket} (h : s.rxHave = true) (hp : s.last = some p) :
    s.lastDecoded = .ok p := by
  simp [State.lastDecoded, h, hp]

/-- In a state that meets the invariant the packet is absent exactly while `rx_have` is 0. -/
theorem lastDecoded_error_iff {s : State} (hi : Inv s) : (∃ e, s.lastDecoded = .error e) ↔ s.rxHave = false := by
  cases h : s.rxHave
  · exact ⟨fun _ => rfl, fun _ => ⟨_, lastDecoded_absent h⟩⟩
  · obtain ⟨p, hp⟩ := Option.isSome_iff_exists.1 (hi.have_last ▸ h)
    simp [lastDecoded_have h hp]

end Sys2Proof.Machine
end

