-- ==== Sys2Proof/Laws/Packet.lean ====
section
/-! SUPPORT. The shape of an encoded packet, of what `decode` accepts, and of a chunk's payload. -/

namespace Sys2Proof.Machine

/-- An encoded packet, written out. -/
theorem encodePacket_some {cmd : Byte} {args : U16} {data frame : List Byte} (h : encodePacket cmd args data = some frame) :
    data.length ≤ 65535 ∧
    frame = 0xAA :: cmd :: hiByte args :: loByte args :: hiByte (BitVec.ofNat 16 data.length) ::
      loByte (BitVec.ofNat 16 data.length) ::
      (data ++ [hiByte (crc16 (crcRegion cmd args data)), loByte (crc16 (crcRegion cmd args data)), 0x55]) := by
  unfold encodePacket at h
  split at h
  next hl =>
    refine ⟨hl, ?_⟩
    simp only [Option.some.injEq] at h
    rw [← h]; simp [crcRegion, fixedFields, frameTail, Config.header, Config.trailer]
  next => cases h

/-- What `decode` accepts, and the fields it gives. -/
theorem decodePacket_some {raw : List Byte} {d : Decoded} (h : decodePacket raw = some d) :
    ∃ h0 cmd a1 a0 l1 l0 c1 c0 t ds,
      raw = h0 :: cmd :: a1 :: a0 :: l1 :: l0 :: (ds ++ [c1, c0, t]) ∧ ds.length = (joinBytes l1 l0).toNat ∧
      d = ⟨cmd, joinBytes a1 a0, joinBytes l1 l0, ds, joinBytes c1 c0, crc16 ([cmd, a1, a0, l1, l0] ++ ds), t,
        joinBytes c1 c0 == crc16 ([cmd, a1, a0, l1, l0] ++ ds), t == 0x55⟩ := by
  unfold decodePacket at h
  split at h
  next h0 cmd a1 a0 l1 l0 rest =>
    unfold decodeBody at h
    split at h
    next c1 c0 t hd =>
      have hl : (rest.take (joinBytes l1 l0).toNat).length = (joinBytes l1 l0).toNat := by
        have := congrArg List.length hd
        simp at this ⊢; omega
      refine ⟨h0, cmd, a1, a0, l1, l0, c1, c0, t, rest.take (joinBytes l1 l0).toNat, ?_, hl, ?_⟩
      · rw [← hd, List.take_append_drop]
      · cases h; rfl
    next => cases h
  next => cases h

theorem decodePacket_of_shape (h0 cmd a1 a0 l1 l0 c1 c0 t : Byte) (ds : List Byte) (hl : ds.length = (joinBytes l1 l0).toNat) :
    decodePacket (h0 :: cmd :: a1 :: a0 :: l1 :: l0 :: (ds ++ [c1, c0, t])) =
      some ⟨cmd, joinBytes a1 a0, joinBytes l1 l0, ds, joinBytes c1 c0, crc16 ([cmd, a1, a0, l1, l0] ++ ds), t,
        joinBytes c1 c0 == crc16 ([cmd, a1, a0, l1, l0] ++ ds), t == 0x55⟩ := by
  simp [decodePacket, decodeBody, ← hl, Config.trailer]

theorem chunkPayload_length (c : List Byte) : (chunkPayload c).length = 1024 := by
  simp only [chunkPayload, List.length_take, List.length_append, List.length_replicate]; omega

theorem chunkPayload_eq (c : List Byte) : chunkPayload c = c.take 1024 ++ List.replicate (1024 - c.length) 0 := by
  unfold chunkPayload
  rw [List.take_append, List.take_replicate, Nat.min_eq_left (by omega)]

/-- The count a total of up to 65536 chunks is sent as; it draws nothing. -/
theorem countWord_of_le {total : Nat} (s : State) (h : total ≤ 65536) :
    s.countWord total = BitVec.ofNat 16 (countValue total) ∧ countDraws total = 0 := ⟨if_pos h, if_pos h⟩

/-- A larger total's count is the next free value. -/
theorem countWord_of_gt {total : Nat} (s : State) (h : 65536 < total) :
    s.countWord total = Config.freeWord s.draws ∧ countDraws total = 1 :=
  ⟨if_neg (Nat.not_le.2 h), if_neg (Nat.not_le.2 h)⟩

end Sys2Proof.Machine
end

