-- ==== Sys2Proof/Laws/PerInstr.lean ====
section
/-! SUPPORT. One lemma per constructor of Instr: the form each instruction is presented in. The operations of R86 are
operation words; the wire commands of R92 are requests. -/

namespace Sys2Proof.Laws.EncodedKind

/-- An instruction is presented as an operation word exactly when it is no wire command. -/
def Statement (i : Instr) : Prop := (∃ w, encode i = .word w) ↔ i.isCommand = false

theorem nop : Statement .nop := ⟨fun _ => rfl, fun _ => ⟨_, rfl⟩⟩
theorem crcInit : Statement .crcInit := ⟨fun _ => rfl, fun _ => ⟨_, rfl⟩⟩
theorem crcByte (b : Byte) : Statement (.crcByte b) := ⟨fun _ => rfl, fun _ => ⟨_, rfl⟩⟩
theorem txStart (cmd : Byte) (args len : U16) : Statement (.txStart cmd args len) := ⟨fun _ => rfl, fun _ => ⟨_, rfl⟩⟩
theorem txData (b : Byte) : Statement (.txData b) := ⟨fun _ => rfl, fun _ => ⟨_, rfl⟩⟩
theorem txAbort : Statement .txAbort := ⟨fun _ => rfl, fun _ => ⟨_, rfl⟩⟩
theorem rxByte (b : Byte) : Statement (.rxByte b) := ⟨fun _ => rfl, fun _ => ⟨_, rfl⟩⟩
theorem rxAbort : Statement .rxAbort := ⟨fun _ => rfl, fun _ => ⟨_, rfl⟩⟩
theorem rxAck : Statement .rxAck := ⟨fun _ => rfl, fun _ => ⟨_, rfl⟩⟩
theorem errClr : Statement .errClr := ⟨fun _ => rfl, fun _ => ⟨_, rfl⟩⟩
theorem cmdCheckModelType (model : List Byte) : Statement (.cmdCheckModelType model) := by simp [Statement, encode, Instr.isCommand]
theorem cmdUpdate (seq : U16) (chunk : List Byte) : Statement (.cmdUpdate seq chunk) := by simp [Statement, encode, Instr.isCommand]
theorem cmdUpdateDataPackages (total : BitVec 32) : Statement (.cmdUpdateDataPackages total) := by simp [Statement, encode, Instr.isCommand]
theorem cmdHandshake : Statement .cmdHandshake := by simp [Statement, encode, Instr.isCommand]
theorem cmdIntoBoot : Statement .cmdIntoBoot := by simp [Statement, encode, Instr.isCommand]
theorem cmdUpdateEnd : Statement .cmdUpdateEnd := by simp [Statement, encode, Instr.isCommand]

end Sys2Proof.Laws.EncodedKind
end

