-- ==== Sys2Proof/Laws/Serializer.lean ====
section
/-! SUPPORT. The serializer's operations, each said once as the explicit states it can answer. -/

namespace Sys2Proof.Machine

/-- `TX_START` after its check: it holds, emits a whole 9-byte frame, or opens a frame. -/
theorem txStartOrHold_cases (cmd : Byte) (args len : U16) (s : State) :
    (s.cfg.txqCap < s.txQ.length + (if len = 0 then 9 else 6) ∧
      txStartOrHold cmd args len s = { s with held := some (.txStart cmd args len) }) ∨
    (len = 0 ∧ s.txQ.length + 9 ≤ s.cfg.txqCap ∧
      txStartOrHold cmd args len s = { s with
        txCrc := crc16 (fixedFields cmd args 0)
        txQ := s.txQ ++ (Config.header :: fixedFields cmd args 0 ++ frameTail (crc16 (fixedFields cmd args 0)))
        txState := .idle
        txRem := 0 }) ∨
    (len ≠ 0 ∧ s.txQ.length + 6 ≤ s.cfg.txqCap ∧
      txStartOrHold cmd args len s = { s with
        txCrc := crc16 (fixedFields cmd args len)
        txQ := s.txQ ++ (Config.header :: fixedFields cmd args len)
        txState := .data
        txRem := len }) := by
  unfold txStartOrHold
  cases hr : s.hasRoom (txStartNeed len) with
  | false => exact .inl ⟨(hasRoom_false_iff _ _).1 hr, rfl⟩
  | true =>
    have := (hasRoom_iff _ _).1 hr
    by_cases hl : len = 0
    · subst hl
      exact .inr (.inl ⟨rfl, this, by simp [txStartPerform, State.finish, State.emit, frameTail, List.append_assoc]⟩)
    · simp only [txStartNeed, hl, if_false] at this
      exact .inr (.inr ⟨hl, this, if_neg hl⟩)

/-- `TX_DATA` after its check: it holds, emits the last byte and the tail, or emits one byte. -/
theorem txDataOrHold_cases (b : Byte) (s : State) :
    (s.cfg.txqCap < s.txQ.length + (if s.txRem = 1 then 4 else 1) ∧
      txDataOrHold b s = { s with held := some (.txData b) }) ∨
    (s.txRem = 1 ∧ s.txQ.length + 4 ≤ s.cfg.txqCap ∧
      txDataOrHold b s = { s with
        txCrc := crcStep s.txCrc b
        txQ := s.txQ ++ (b :: frameTail (crcStep s.txCrc b))
        txState := .idle
        txRem := 0 }) ∨
    (s.txRem ≠ 1 ∧ s.txQ.length + 1 ≤ s.cfg.txqCap ∧
      txDataOrHold b s = { s with
        txCrc := crcStep s.txCrc b
        txQ := s.txQ ++ [b]
        txRem := s.txRem - 1 }) := by
  unfold txDataOrHold
  cases hr : s.hasRoom (txDataNeed s) with
  | false => exact .inl ⟨(hasRoom_false_iff _ _).1 hr, rfl⟩
  | true =>
    have := (hasRoom_iff _ _).1 hr
    by_cases hl : s.txRem = 1
    · simp only [txDataNeed, hl, if_true] at this
      exact .inr (.inl ⟨hl, this, by simp [txDataPerform, hl, State.finish, State.emit, frameTail, List.append_assoc]⟩)
    · simp only [txDataNeed, hl, if_false] at this
      exact .inr (.inr ⟨hl, this, if_neg hl⟩)

end Sys2Proof.Machine
end

