-- ==== Sys2Proof/Laws/State.lean ====
section
/-! SUPPORT. One lemma per field per named update of State, each true by unfolding. The updates that branch (recording an
error, the line-out's step) are said whole in Laws/Ops.lean. -/

namespace Sys2Proof.Machine

@[simp] theorem State.clearError_cfg (s : State) : s.clearError.cfg = s.cfg := rfl
@[simp] theorem State.clearError_crc (s : State) : s.clearError.crc = s.crc := rfl
@[simp] theorem State.clearError_txState (s : State) : s.clearError.txState = s.txState := rfl
@[simp] theorem State.clearError_txRem (s : State) : s.clearError.txRem = s.txRem := rfl
@[simp] theorem State.clearError_txCrc (s : State) : s.clearError.txCrc = s.txCrc := rfl
@[simp] theorem State.clearError_txQ (s : State) : s.clearError.txQ = s.txQ := rfl
@[simp] theorem State.clearError_txWire (s : State) : s.clearError.txWire = s.txWire := rfl
@[simp] theorem State.clearError_rxState (s : State) : s.clearError.rxState = s.rxState := rfl
@[simp] theorem State.clearError_rxIdx (s : State) : s.clearError.rxIdx = s.rxIdx := rfl
@[simp] theorem State.clearError_rxCrc (s : State) : s.clearError.rxCrc = s.rxCrc := rfl
@[simp] theorem State.clearError_rxFix (s : State) : s.clearError.rxFix = s.rxFix := rfl
@[simp] theorem State.clearError_rxLen (s : State) : s.clearError.rxLen = s.rxLen := rfl
@[simp] theorem State.clearError_rxBuf (s : State) : s.clearError.rxBuf = s.rxBuf := rfl
@[simp] theorem State.clearError_rxRcrc (s : State) : s.clearError.rxRcrc = s.rxRcrc := rfl
@[simp] theorem State.clearError_last (s : State) : s.clearError.last = s.last := rfl
@[simp] theorem State.clearError_rxHave (s : State) : s.clearError.rxHave = s.rxHave := rfl
@[simp] theorem State.clearError_rxDone (s : State) : s.clearError.rxDone = s.rxDone := rfl
@[simp] theorem State.clearError_rxOvr (s : State) : s.clearError.rxOvr = s.rxOvr := rfl
@[simp] theorem State.clearError_errCode (s : State) : s.clearError.errCode = 0 := rfl
@[simp] theorem State.clearError_held (s : State) : s.clearError.held = s.held := rfl
@[simp] theorem State.clearError_hostPort (s : State) : s.clearError.hostPort = s.hostPort := rfl
@[simp] theorem State.clearError_lineIn (s : State) : s.clearError.lineIn = s.lineIn := rfl
@[simp] theorem State.clearError_schedule (s : State) : s.clearError.schedule = s.schedule := rfl
@[simp] theorem State.clearError_draws (s : State) : s.clearError.draws = s.draws := rfl

@[simp] theorem State.emit_cfg (bs : List Byte) (s : State) : (s.emit bs).cfg = s.cfg := rfl
@[simp] theorem State.emit_crc (bs : List Byte) (s : State) : (s.emit bs).crc = s.crc := rfl
@[simp] theorem State.emit_txState (bs : List Byte) (s : State) : (s.emit bs).txState = s.txState := rfl
@[simp] theorem State.emit_txRem (bs : List Byte) (s : State) : (s.emit bs).txRem = s.txRem := rfl
@[simp] theorem State.emit_txCrc (bs : List Byte) (s : State) : (s.emit bs).txCrc = s.txCrc := rfl
@[simp] theorem State.emit_txQ (bs : List Byte) (s : State) : (s.emit bs).txQ = s.txQ ++ bs := rfl
@[simp] theorem State.emit_txWire (bs : List Byte) (s : State) : (s.emit bs).txWire = s.txWire := rfl
@[simp] theorem State.emit_rxState (bs : List Byte) (s : State) : (s.emit bs).rxState = s.rxState := rfl
@[simp] theorem State.emit_rxIdx (bs : List Byte) (s : State) : (s.emit bs).rxIdx = s.rxIdx := rfl
@[simp] theorem State.emit_rxCrc (bs : List Byte) (s : State) : (s.emit bs).rxCrc = s.rxCrc := rfl
@[simp] theorem State.emit_rxFix (bs : List Byte) (s : State) : (s.emit bs).rxFix = s.rxFix := rfl
@[simp] theorem State.emit_rxLen (bs : List Byte) (s : State) : (s.emit bs).rxLen = s.rxLen := rfl
@[simp] theorem State.emit_rxBuf (bs : List Byte) (s : State) : (s.emit bs).rxBuf = s.rxBuf := rfl
@[simp] theorem State.emit_rxRcrc (bs : List Byte) (s : State) : (s.emit bs).rxRcrc = s.rxRcrc := rfl
@[simp] theorem State.emit_last (bs : List Byte) (s : State) : (s.emit bs).last = s.last := rfl
@[simp] theorem State.emit_rxHave (bs : List Byte) (s : State) : (s.emit bs).rxHave = s.rxHave := rfl
@[simp] theorem State.emit_rxDone (bs : List Byte) (s : State) : (s.emit bs).rxDone = s.rxDone := rfl
@[simp] theorem State.emit_rxOvr (bs : List Byte) (s : State) : (s.emit bs).rxOvr = s.rxOvr := rfl
@[simp] theorem State.emit_errCode (bs : List Byte) (s : State) : (s.emit bs).errCode = s.errCode := rfl
@[simp] theorem State.emit_held (bs : List Byte) (s : State) : (s.emit bs).held = s.held := rfl
@[simp] theorem State.emit_hostPort (bs : List Byte) (s : State) : (s.emit bs).hostPort = s.hostPort := rfl
@[simp] theorem State.emit_lineIn (bs : List Byte) (s : State) : (s.emit bs).lineIn = s.lineIn := rfl
@[simp] theorem State.emit_schedule (bs : List Byte) (s : State) : (s.emit bs).schedule = s.schedule := rfl
@[simp] theorem State.emit_draws (bs : List Byte) (s : State) : (s.emit bs).draws = s.draws := rfl

@[simp] theorem State.hold_cfg (h : HeldOp) (s : State) : (s.hold h).cfg = s.cfg := rfl
@[simp] theorem State.hold_crc (h : HeldOp) (s : State) : (s.hold h).crc = s.crc := rfl
@[simp] theorem State.hold_txState (h : HeldOp) (s : State) : (s.hold h).txState = s.txState := rfl
@[simp] theorem State.hold_txRem (h : HeldOp) (s : State) : (s.hold h).txRem = s.txRem := rfl
@[simp] theorem State.hold_txCrc (h : HeldOp) (s : State) : (s.hold h).txCrc = s.txCrc := rfl
@[simp] theorem State.hold_txQ (h : HeldOp) (s : State) : (s.hold h).txQ = s.txQ := rfl
@[simp] theorem State.hold_txWire (h : HeldOp) (s : State) : (s.hold h).txWire = s.txWire := rfl
@[simp] theorem State.hold_rxState (h : HeldOp) (s : State) : (s.hold h).rxState = s.rxState := rfl
@[simp] theorem State.hold_rxIdx (h : HeldOp) (s : State) : (s.hold h).rxIdx = s.rxIdx := rfl
@[simp] theorem State.hold_rxCrc (h : HeldOp) (s : State) : (s.hold h).rxCrc = s.rxCrc := rfl
@[simp] theorem State.hold_rxFix (h : HeldOp) (s : State) : (s.hold h).rxFix = s.rxFix := rfl
@[simp] theorem State.hold_rxLen (h : HeldOp) (s : State) : (s.hold h).rxLen = s.rxLen := rfl
@[simp] theorem State.hold_rxBuf (h : HeldOp) (s : State) : (s.hold h).rxBuf = s.rxBuf := rfl
@[simp] theorem State.hold_rxRcrc (h : HeldOp) (s : State) : (s.hold h).rxRcrc = s.rxRcrc := rfl
@[simp] theorem State.hold_last (h : HeldOp) (s : State) : (s.hold h).last = s.last := rfl
@[simp] theorem State.hold_rxHave (h : HeldOp) (s : State) : (s.hold h).rxHave = s.rxHave := rfl
@[simp] theorem State.hold_rxDone (h : HeldOp) (s : State) : (s.hold h).rxDone = s.rxDone := rfl
@[simp] theorem State.hold_rxOvr (h : HeldOp) (s : State) : (s.hold h).rxOvr = s.rxOvr := rfl
@[simp] theorem State.hold_errCode (h : HeldOp) (s : State) : (s.hold h).errCode = s.errCode := rfl
@[simp] theorem State.hold_held (h : HeldOp) (s : State) : (s.hold h).held = some h := rfl
@[simp] theorem State.hold_hostPort (h : HeldOp) (s : State) : (s.hold h).hostPort = s.hostPort := rfl
@[simp] theorem State.hold_lineIn (h : HeldOp) (s : State) : (s.hold h).lineIn = s.lineIn := rfl
@[simp] theorem State.hold_schedule (h : HeldOp) (s : State) : (s.hold h).schedule = s.schedule := rfl
@[simp] theorem State.hold_draws (h : HeldOp) (s : State) : (s.hold h).draws = s.draws := rfl

@[simp] theorem State.finish_cfg (c : U16) (s : State) : (s.finish c).cfg = s.cfg := rfl
@[simp] theorem State.finish_crc (c : U16) (s : State) : (s.finish c).crc = s.crc := rfl
@[simp] theorem State.finish_txState (c : U16) (s : State) : (s.finish c).txState = .idle := rfl
@[simp] theorem State.finish_txRem (c : U16) (s : State) : (s.finish c).txRem = 0 := rfl
@[simp] theorem State.finish_txCrc (c : U16) (s : State) : (s.finish c).txCrc = s.txCrc := rfl
@[simp] theorem State.finish_txQ (c : U16) (s : State) : (s.finish c).txQ = s.txQ ++ [hiByte c, loByte c, Config.trailer] := rfl
@[simp] theorem State.finish_txWire (c : U16) (s : State) : (s.finish c).txWire = s.txWire := rfl
@[simp] theorem State.finish_rxState (c : U16) (s : State) : (s.finish c).rxState = s.rxState := rfl
@[simp] theorem State.finish_rxIdx (c : U16) (s : State) : (s.finish c).rxIdx = s.rxIdx := rfl
@[simp] theorem State.finish_rxCrc (c : U16) (s : State) : (s.finish c).rxCrc = s.rxCrc := rfl
@[simp] theorem State.finish_rxFix (c : U16) (s : State) : (s.finish c).rxFix = s.rxFix := rfl
@[simp] theorem State.finish_rxLen (c : U16) (s : State) : (s.finish c).rxLen = s.rxLen := rfl
@[simp] theorem State.finish_rxBuf (c : U16) (s : State) : (s.finish c).rxBuf = s.rxBuf := rfl
@[simp] theorem State.finish_rxRcrc (c : U16) (s : State) : (s.finish c).rxRcrc = s.rxRcrc := rfl
@[simp] theorem State.finish_last (c : U16) (s : State) : (s.finish c).last = s.last := rfl
@[simp] theorem State.finish_rxHave (c : U16) (s : State) : (s.finish c).rxHave = s.rxHave := rfl
@[simp] theorem State.finish_rxDone (c : U16) (s : State) : (s.finish c).rxDone = s.rxDone := rfl
@[simp] theorem State.finish_rxOvr (c : U16) (s : State) : (s.finish c).rxOvr = s.rxOvr := rfl
@[simp] theorem State.finish_errCode (c : U16) (s : State) : (s.finish c).errCode = s.errCode := rfl
@[simp] theorem State.finish_held (c : U16) (s : State) : (s.finish c).held = s.held := rfl
@[simp] theorem State.finish_hostPort (c : U16) (s : State) : (s.finish c).hostPort = s.hostPort := rfl
@[simp] theorem State.finish_lineIn (c : U16) (s : State) : (s.finish c).lineIn = s.lineIn := rfl
@[simp] theorem State.finish_schedule (c : U16) (s : State) : (s.finish c).schedule = s.schedule := rfl
@[simp] theorem State.finish_draws (c : U16) (s : State) : (s.finish c).draws = s.draws := rfl

@[simp] theorem State.presentNext_cfg (i : HostItem) (s : State) : (s.presentNext i).cfg = s.cfg := rfl
@[simp] theorem State.presentNext_crc (i : HostItem) (s : State) : (s.presentNext i).crc = s.crc := rfl
@[simp] theorem State.presentNext_txState (i : HostItem) (s : State) : (s.presentNext i).txState = s.txState := rfl
@[simp] theorem State.presentNext_txRem (i : HostItem) (s : State) : (s.presentNext i).txRem = s.txRem := rfl
@[simp] theorem State.presentNext_txCrc (i : HostItem) (s : State) : (s.presentNext i).txCrc = s.txCrc := rfl
@[simp] theorem State.presentNext_txQ (i : HostItem) (s : State) : (s.presentNext i).txQ = s.txQ := rfl
@[simp] theorem State.presentNext_txWire (i : HostItem) (s : State) : (s.presentNext i).txWire = s.txWire := rfl
@[simp] theorem State.presentNext_rxState (i : HostItem) (s : State) : (s.presentNext i).rxState = s.rxState := rfl
@[simp] theorem State.presentNext_rxIdx (i : HostItem) (s : State) : (s.presentNext i).rxIdx = s.rxIdx := rfl
@[simp] theorem State.presentNext_rxCrc (i : HostItem) (s : State) : (s.presentNext i).rxCrc = s.rxCrc := rfl
@[simp] theorem State.presentNext_rxFix (i : HostItem) (s : State) : (s.presentNext i).rxFix = s.rxFix := rfl
@[simp] theorem State.presentNext_rxLen (i : HostItem) (s : State) : (s.presentNext i).rxLen = s.rxLen := rfl
@[simp] theorem State.presentNext_rxBuf (i : HostItem) (s : State) : (s.presentNext i).rxBuf = s.rxBuf := rfl
@[simp] theorem State.presentNext_rxRcrc (i : HostItem) (s : State) : (s.presentNext i).rxRcrc = s.rxRcrc := rfl
@[simp] theorem State.presentNext_last (i : HostItem) (s : State) : (s.presentNext i).last = s.last := rfl
@[simp] theorem State.presentNext_rxHave (i : HostItem) (s : State) : (s.presentNext i).rxHave = s.rxHave := rfl
@[simp] theorem State.presentNext_rxDone (i : HostItem) (s : State) : (s.presentNext i).rxDone = s.rxDone := rfl
@[simp] theorem State.presentNext_rxOvr (i : HostItem) (s : State) : (s.presentNext i).rxOvr = s.rxOvr := rfl
@[simp] theorem State.presentNext_errCode (i : HostItem) (s : State) : (s.presentNext i).errCode = s.errCode := rfl
@[simp] theorem State.presentNext_held (i : HostItem) (s : State) : (s.presentNext i).held = none := rfl
@[simp] theorem State.presentNext_hostPort (i : HostItem) (s : State) : (s.presentNext i).hostPort = i :: s.hostPort := rfl
@[simp] theorem State.presentNext_lineIn (i : HostItem) (s : State) : (s.presentNext i).lineIn = s.lineIn := rfl
@[simp] theorem State.presentNext_schedule (i : HostItem) (s : State) : (s.presentNext i).schedule = .host :: s.schedule := rfl
@[simp] theorem State.presentNext_draws (i : HostItem) (s : State) : (s.presentNext i).draws = s.draws := rfl

@[simp] theorem State.sendPacket_cfg (cmd : Byte) (args : U16) (data : List Byte) (s : State) : (s.sendPacket cmd args data).cfg = s.cfg := rfl
@[simp] theorem State.sendPacket_crc (cmd : Byte) (args : U16) (data : List Byte) (s : State) : (s.sendPacket cmd args data).crc = s.crc := rfl
@[simp] theorem State.sendPacket_txState (cmd : Byte) (args : U16) (data : List Byte) (s : State) : (s.sendPacket cmd args data).txState = s.txState := rfl
@[simp] theorem State.sendPacket_txRem (cmd : Byte) (args : U16) (data : List Byte) (s : State) : (s.sendPacket cmd args data).txRem = s.txRem := rfl
@[simp] theorem State.sendPacket_txCrc (cmd : Byte) (args : U16) (data : List Byte) (s : State) : (s.sendPacket cmd args data).txCrc = s.txCrc := rfl
@[simp] theorem State.sendPacket_txQ (cmd : Byte) (args : U16) (data : List Byte) (s : State) : (s.sendPacket cmd args data).txQ = s.txQ := rfl
@[simp] theorem State.sendPacket_txWire (cmd : Byte) (args : U16) (data : List Byte) (s : State) : (s.sendPacket cmd args data).txWire = s.txWire := rfl
@[simp] theorem State.sendPacket_rxState (cmd : Byte) (args : U16) (data : List Byte) (s : State) : (s.sendPacket cmd args data).rxState = s.rxState := rfl
@[simp] theorem State.sendPacket_rxIdx (cmd : Byte) (args : U16) (data : List Byte) (s : State) : (s.sendPacket cmd args data).rxIdx = s.rxIdx := rfl
@[simp] theorem State.sendPacket_rxCrc (cmd : Byte) (args : U16) (data : List Byte) (s : State) : (s.sendPacket cmd args data).rxCrc = s.rxCrc := rfl
@[simp] theorem State.sendPacket_rxFix (cmd : Byte) (args : U16) (data : List Byte) (s : State) : (s.sendPacket cmd args data).rxFix = s.rxFix := rfl
@[simp] theorem State.sendPacket_rxLen (cmd : Byte) (args : U16) (data : List Byte) (s : State) : (s.sendPacket cmd args data).rxLen = s.rxLen := rfl
@[simp] theorem State.sendPacket_rxBuf (cmd : Byte) (args : U16) (data : List Byte) (s : State) : (s.sendPacket cmd args data).rxBuf = s.rxBuf := rfl
@[simp] theorem State.sendPacket_rxRcrc (cmd : Byte) (args : U16) (data : List Byte) (s : State) : (s.sendPacket cmd args data).rxRcrc = s.rxRcrc := rfl
@[simp] theorem State.sendPacket_last (cmd : Byte) (args : U16) (data : List Byte) (s : State) : (s.sendPacket cmd args data).last = s.last := rfl
@[simp] theorem State.sendPacket_rxHave (cmd : Byte) (args : U16) (data : List Byte) (s : State) : (s.sendPacket cmd args data).rxHave = s.rxHave := rfl
@[simp] theorem State.sendPacket_rxDone (cmd : Byte) (args : U16) (data : List Byte) (s : State) : (s.sendPacket cmd args data).rxDone = s.rxDone := rfl
@[simp] theorem State.sendPacket_rxOvr (cmd : Byte) (args : U16) (data : List Byte) (s : State) : (s.sendPacket cmd args data).rxOvr = s.rxOvr := rfl
@[simp] theorem State.sendPacket_errCode (cmd : Byte) (args : U16) (data : List Byte) (s : State) : (s.sendPacket cmd args data).errCode = s.errCode := rfl
@[simp] theorem State.sendPacket_held (cmd : Byte) (args : U16) (data : List Byte) (s : State) : (s.sendPacket cmd args data).held = s.held := rfl
@[simp] theorem State.sendPacket_hostPort (cmd : Byte) (args : U16) (data : List Byte) (s : State) : (s.sendPacket cmd args data).hostPort = (sendInstrs cmd args data).map encode ++ s.hostPort := rfl
@[simp] theorem State.sendPacket_lineIn (cmd : Byte) (args : U16) (data : List Byte) (s : State) : (s.sendPacket cmd args data).lineIn = s.lineIn := rfl
@[simp] theorem State.sendPacket_schedule (cmd : Byte) (args : U16) (data : List Byte) (s : State) : (s.sendPacket cmd args data).schedule = s.schedule := rfl
@[simp] theorem State.sendPacket_draws (cmd : Byte) (args : U16) (data : List Byte) (s : State) : (s.sendPacket cmd args data).draws = s.draws := rfl

@[simp] theorem State.applyReset_cfg (s : State) : s.applyReset.cfg = s.cfg := rfl
@[simp] theorem State.applyReset_crc (s : State) : s.applyReset.crc = 0 := rfl
@[simp] theorem State.applyReset_txState (s : State) : s.applyReset.txState = .idle := rfl
@[simp] theorem State.applyReset_txRem (s : State) : s.applyReset.txRem = 0 := rfl
@[simp] theorem State.applyReset_txCrc (s : State) : s.applyReset.txCrc = 0 := rfl
@[simp] theorem State.applyReset_txQ (s : State) : s.applyReset.txQ = [] := rfl
@[simp] theorem State.applyReset_txWire (s : State) : s.applyReset.txWire = s.txWire := rfl
@[simp] theorem State.applyReset_rxState (s : State) : s.applyReset.rxState = .hunt := rfl
@[simp] theorem State.applyReset_rxIdx (s : State) : s.applyReset.rxIdx = 0 := rfl
@[simp] theorem State.applyReset_rxCrc (s : State) : s.applyReset.rxCrc = Config.freeWord s.draws := rfl
@[simp] theorem State.applyReset_rxLen (s : State) : s.applyReset.rxLen = Config.freeWord (s.draws + 1) := rfl
@[simp] theorem State.applyReset_rxBuf (s : State) : s.applyReset.rxBuf = (Config.freeBytes s.draws).take s.cfg.dataCap := rfl
@[simp] theorem State.applyReset_rxRcrc (s : State) : s.applyReset.rxRcrc = Config.freeWord (s.draws + 2) := rfl
@[simp] theorem State.applyReset_last (s : State) : s.applyReset.last = none := rfl
@[simp] theorem State.applyReset_rxHave (s : State) : s.applyReset.rxHave = false := rfl
@[simp] theorem State.applyReset_rxDone (s : State) : s.applyReset.rxDone = false := rfl
@[simp] theorem State.applyReset_rxOvr (s : State) : s.applyReset.rxOvr = false := rfl
@[simp] theorem State.applyReset_errCode (s : State) : s.applyReset.errCode = 0 := rfl
@[simp] theorem State.applyReset_held (s : State) : s.applyReset.held = none := rfl
@[simp] theorem State.applyReset_hostPort (s : State) : s.applyReset.hostPort = s.hostPort := rfl
@[simp] theorem State.applyReset_lineIn (s : State) : s.applyReset.lineIn = s.lineIn := rfl
@[simp] theorem State.applyReset_schedule (s : State) : s.applyReset.schedule = s.schedule := rfl
@[simp] theorem State.applyReset_draws (s : State) : s.applyReset.draws = s.draws + 5 := rfl

@[simp] theorem rxComplete_cfg (t : Byte) (s : State) : (rxComplete t s).cfg = s.cfg := rfl
@[simp] theorem rxComplete_crc (t : Byte) (s : State) : (rxComplete t s).crc = s.crc := rfl
@[simp] theorem rxComplete_txState (t : Byte) (s : State) : (rxComplete t s).txState = s.txState := rfl
@[simp] theorem rxComplete_txRem (t : Byte) (s : State) : (rxComplete t s).txRem = s.txRem := rfl
@[simp] theorem rxComplete_txCrc (t : Byte) (s : State) : (rxComplete t s).txCrc = s.txCrc := rfl
@[simp] theorem rxComplete_txQ (t : Byte) (s : State) : (rxComplete t s).txQ = s.txQ := rfl
@[simp] theorem rxComplete_txWire (t : Byte) (s : State) : (rxComplete t s).txWire = s.txWire := rfl
@[simp] theorem rxComplete_rxState (t : Byte) (s : State) : (rxComplete t s).rxState = .hunt := rfl
@[simp] theorem rxComplete_rxIdx (t : Byte) (s : State) : (rxComplete t s).rxIdx = 0 := rfl
@[simp] theorem rxComplete_rxCrc (t : Byte) (s : State) : (rxComplete t s).rxCrc = s.rxCrc := rfl
@[simp] theorem rxComplete_rxFix (t : Byte) (s : State) : (rxComplete t s).rxFix = s.rxFix := rfl
@[simp] theorem rxComplete_rxLen (t : Byte) (s : State) : (rxComplete t s).rxLen = s.rxLen := rfl
@[simp] theorem rxComplete_rxBuf (t : Byte) (s : State) : (rxComplete t s).rxBuf = s.rxBuf := rfl
@[simp] theorem rxComplete_rxRcrc (t : Byte) (s : State) : (rxComplete t s).rxRcrc = s.rxRcrc := rfl
@[simp] theorem rxComplete_last (t : Byte) (s : State) : (rxComplete t s).last = some (completedPacket t s) := rfl
@[simp] theorem rxComplete_rxHave (t : Byte) (s : State) : (rxComplete t s).rxHave = true := rfl
@[simp] theorem rxComplete_rxDone (t : Byte) (s : State) : (rxComplete t s).rxDone = true := rfl
@[simp] theorem rxComplete_rxOvr (t : Byte) (s : State) : (rxComplete t s).rxOvr = (s.rxOvr || s.rxDone) := rfl
@[simp] theorem rxComplete_errCode (t : Byte) (s : State) : (rxComplete t s).errCode = s.errCode := rfl
@[simp] theorem rxComplete_held (t : Byte) (s : State) : (rxComplete t s).held = s.held := rfl
@[simp] theorem rxComplete_hostPort (t : Byte) (s : State) : (rxComplete t s).hostPort = s.hostPort := rfl
@[simp] theorem rxComplete_lineIn (t : Byte) (s : State) : (rxComplete t s).lineIn = s.lineIn := rfl
@[simp] theorem rxComplete_schedule (t : Byte) (s : State) : (rxComplete t s).schedule = s.schedule := rfl
@[simp] theorem rxComplete_draws (t : Byte) (s : State) : (rxComplete t s).draws = s.draws := rfl

end Sys2Proof.Machine
end

