-- ==== Sys2Proof/Tests/Slice0.lean ====
section
/-! SUPPORT. The model's own tests. Expected results are the vectors of spec/95_test_vectors.md (named V-...), the words of
30_encoding.md R84 to R86, or computed by hand from the rules. After them, for each statement with hypotheses, a concrete
state and operands that meet them. -/

namespace Sys2Proof.Tests

open Machine

/-! ### Well-formedness: one ill-formed term for each check -/

theorem smoke_wf_model_id : Instr.wf (.cmdCheckModelType (List.replicate 31 0)) = false := by decide

theorem smoke_wf_model_id_long : Instr.wf (.cmdCheckModelType (List.replicate 33 0)) = false := by decide

/-! ### Decoding: a word of every constructor, written out from R84 to R86 and R92 -/

theorem test_decode_format_z :
    decodeWord 0b00000000_00000000_00000000_00000000_00000000_00000000 = .ok .nop ∧
    decodeWord 0b00000001_00000000_00000000_00000000_00000000_00000000 = .ok .crcInit ∧
    decodeWord 0b00010010_00000000_00000000_00000000_00000000_00000000 = .ok .txAbort ∧
    decodeWord 0b00100001_00000000_00000000_00000000_00000000_00000000 = .ok .rxAbort ∧
    decodeWord 0b00100010_00000000_00000000_00000000_00000000_00000000 = .ok .rxAck ∧
    decodeWord 0b00110000_00000000_00000000_00000000_00000000_00000000 = .ok .errClr := by decide

theorem test_decode_format_b :
    decodeWord 0b00000010_00000000_00000000_00000000_00000000_00110001 = .ok (.crcByte 0x31) ∧
    decodeWord 0b00010001_00000000_00000000_00000000_00000000_00000101 = .ok (.txData 0x05) ∧
    decodeWord 0b00100000_00000000_00000000_00000000_00000000_10101010 = .ok (.rxByte 0xAA) := by decide

theorem test_decode_format_s :
    decodeWord 0b00010000_00000011_00000000_00000001_00000100_00000000 = .ok (.txStart 0x03 0x0001 0x0400) := by decide

theorem test_decode_requests :
    decode (.request 0x02 (List.replicate 32 7)) = .ok (.cmdCheckModelType (List.replicate 32 7)) ∧
    decode (.request 0x03 [0x01, 0x02, 0xFF]) = .ok (.cmdUpdate 0x0102 [0xFF]) ∧
    decode (.request 0x04 [0x01, 0x02, 0x03, 0x04]) = .ok (.cmdUpdateDataPackages 0x01020304) ∧
    decode (.request 0x0A []) = .ok .cmdHandshake ∧
    decode (.request 0x42 []) = .ok .cmdIntoBoot ∧
    decode (.request 0x45 []) = .ok .cmdUpdateEnd := by decide

theorem test_decode_table_commands :
    decodeTableWord 8 0x02 = some (.cmdCheckModelType (List.replicate 32 0)) ∧
    decodeTableWord 8 0x03 = some (.cmdUpdate 0 []) ∧
    decodeTableWord 8 0x04 = some (.cmdUpdateDataPackages 0) ∧
    decodeTableWord 8 0x0A = some .cmdHandshake ∧
    decodeTableWord 8 0x42 = some .cmdIntoBoot ∧
    decodeTableWord 8 0x45 = some .cmdUpdateEnd ∧
    decodeTableWord 48 0x104200000000 = some (.txStart 0x42 0 0) ∧
    decodeTableWord 48 0x030000000000 = none := by decide

/-! ### Each instruction -/

/-- A state of the host's turn with one word on the port. -/
def presenting (w : OpWord) (s : State) : State := { s with schedule := [.host], hostPort := [.word w] }

/-- The next state, if there is one. -/
def nextState : Host.Outcome State Fault Refusal → Option State
  | .next t => some t
  | .fault _ => none
  | .refused _ => none

/-- The state one step on. -/
def after (s : State) : State := (nextState (step s)).getD s

theorem test_fetch_word_runs_next :
    nextState (step (State.reset.withFetchWord 48 0x020000000031)) = some { State.reset with crc := 0x2672 } ∧
    nextState (step (State.reset.withFetchWord 8 0x45)) =
      some { State.reset with hostPort := [.word 0x104500000000] } := by decide +kernel

/-- V-E-1. -/
theorem test_nop : nextState (step (presenting 0 State.reset)) = some State.reset := by decide

/-- V-E-2, V-E-3, V-E-4, V-E-5. -/
theorem test_malformed_words :
    (after (presenting 0x000000000001 State.reset)).status = 0x0400 ∧
    (after (presenting 0xFFFFFFFFFFFF State.reset)).status = 0x0200 ∧
    (after (presenting 0x030000000005 State.reset)).status = 0x0200 ∧
    (after (presenting 0x110000000100 State.reset)).status = 0x0400 := by decide

/-- V-E-11: the first error wins. -/
theorem test_first_error_wins :
    (after (presenting 0xFFFFFFFFFFFF { State.reset with errCode := 2 })).status = 0x0400 := by decide

/-- V-C-28. -/
theorem test_crc_init :
    after (presenting 0x010000000000 { State.reset with crc := 0x2672 }) = State.reset := by decide

/-- V-C-16, V-C-17, V-C-18, V-C-21. -/
theorem test_crc_step :
    crcStep 0x1234 0x56 = 0x3C40 ∧ crcStep 0xFFFF 0x00 = 0xE1F0 ∧ crcStep 0x8000 0x00 = 0x9188 ∧
    crcStep 0x31C3 0x31 = 0xC300 ∧ crcStepTable 0x1234 0x56 = 0x3C40 := by decide

/-- V-C-9, V-C-26. -/
theorem test_crc_check_value :
    crc16 [0x31, 0x32, 0x33, 0x34, 0x35, 0x36, 0x37, 0x38, 0x39] = 0x31C3 ∧
    List.foldl crcStepWide 0 [0x31, 0x32, 0x33, 0x34, 0x35, 0x36, 0x37, 0x38, 0x39] = 0x321512A9EC6416B5A331C3 := by
  decide +kernel

/-- V-T-26. -/
theorem test_tx_start_empty :
    after (presenting 0x104200000000 State.reset) =
      { State.reset with txQ := [0xAA, 0x42, 0, 0, 0, 0, 0x55, 0xEB, 0x55], txCrc := 0x55EB } := by decide +kernel

/-- V-T-29. -/
theorem test_tx_start_busy :
    (after (presenting 0x104200000000 { State.reset with
      txState := .data, txRem := 1, txQ := [0xAA, 0x03, 0, 0, 0, 1] })).status = 0x0700 := by decide

/-- The frame of V-T-28 before its last byte. -/
def openFrame : State :=
  { State.reset with txState := .data, txRem := 1, txQ := [0xAA, 0x04, 0, 0, 0, 2, 0], txCrc := crc16 [4, 0, 0, 0, 2, 0] }

/-- V-T-28. -/
theorem test_tx_data_last :
    (after (presenting 0x110000000002 openFrame)).txQ = [0xAA, 0x04, 0, 0, 0, 2, 0, 2, 0x8F, 0xE4, 0x55] ∧
    (after (presenting 0x110000000002 openFrame)).status = 0 := by decide +kernel

/-- V-T-30. -/
theorem test_tx_data_idle :
    after (presenting 0x110000000005 State.reset) = { State.reset with errCode := 4 } := by decide

/-- `s` with a 9-byte queue. -/
def nineByteQueue (s : State) : State := { s with cfg := { s.cfg with txqCap := 9 } }

/-- V-T-31: with 7 of 9 bytes queued the last byte holds; with 5 it is performed. -/
theorem test_tx_data_holds :
    (after (presenting 0x110000000002 (nineByteQueue openFrame))).held = some (.txData 2) ∧
    (after (nineByteQueue { openFrame with
      txQ := openFrame.txQ.drop 2, held := some (.txData 2), schedule := [.host] })).txQ =
      [0, 0, 0, 2, 0, 2, 0x8F, 0xE4, 0x55] := by decide +kernel

/-- V-T-32. -/
theorem test_tx_abort :
    after (presenting 0x120000000000 { State.reset with txState := .data, txRem := 0x400, txQ := [0xAA, 3, 0, 0, 4, 0] }) =
      State.reset := by decide

/-- V-T-33. -/
theorem test_tx_shift :
    after { State.reset with schedule := [.lineOut], txQ := [0xAA, 0x42] } =
      { State.reset with txQ := [0x42], txWire := [0xAA] } := by decide

/-- V-D-1's frame before its trailer. -/
def awaitingTrailer : State :=
  { State.reset with
    rxState := .body, rxIdx := 2, rxFix := ⟨0x42, 0x00, 0x06, 0x00, 0x00⟩, rxCrc := 0xE74B, rxRcrc := 0xE74B }

/-- V-D-1. -/
theorem test_rx_byte_completes :
    (after { awaitingTrailer with schedule := [.lineIn], lineIn := [0x55] }).last =
      some ⟨0x42, 0x0006, 0, [], 0xE74B, 0xE74B, 0x55, true, true, false⟩ ∧
    (after { awaitingTrailer with schedule := [.lineIn], lineIn := [0x55] }).status = 0x001D := by decide

/-- V-D-9: a flip in the length field that the CRC does not catch. -/
theorem test_rx_length_flip :
    (nextState (deliver [0xAA, 0x42, 0, 0, 0, 1, 0x11, 0xD0, 0x71, 0xED, 0x68, 0x55] State.reset)).bind (·.last) =
      some ⟨0x42, 0, 1, [0x11], 0xD071, 0xD071, 0xED, true, false, false⟩ := by decide +kernel

/-- V-D-7: with room for 2 of 4 data bytes. -/
theorem test_rx_truncates :
    (nextState (deliver [0xAA, 3, 0, 1, 0, 4, 0xAA, 0x55, 0xAA, 0x55, 0xD3, 0x25, 0x55]
        { State.reset with cfg := { Config.standard with dataCap := 2 } })).map
        (fun t => (t.status, readPort (.lastData 1) t, readPort (.lastData 2) t)) =
      some (0x003D, .ok (.byte 0x55), .error .bufIndexOutside) := by decide +kernel

/-- V-D-10. -/
theorem test_rx_abort :
    (after (presenting 0x210000000000 { State.reset with rxState := .body, rxIdx := 9, rxLen := 0xFF })).status = 0 := by
  decide

/-- V-D-5. -/
theorem test_rx_ack :
    (after (presenting 0x220000000000 { State.reset with
      rxDone := true, rxOvr := true, rxHave := true
      last := some ⟨0x42, 0x0006, 0, [], 0xE74B, 0xE74B, 0x55, true, true, false⟩ })).status = 0x001C := by decide

/-- V-E-8. -/
theorem test_err_clr :
    (after (presenting 0x300000000000 { openFrame with errCode := 3 })).status = 0x0100 := by decide

/-- R190, R191: no payload. -/
theorem test_cmd_into_boot_and_update_end :
    nextState (exec .cmdIntoBoot State.reset) = some { State.reset with hostPort := [.word 0x104200000000] } ∧
    nextState (exec .cmdUpdateEnd State.reset) = some { State.reset with hostPort := [.word 0x104500000000] } := by decide

/-- R194 with V-L1-3: 3 chunks are sent as 2, in both byte orders. -/
theorem test_cmd_packages :
    nextState (exec (.cmdUpdateDataPackages 3) State.reset) = some { State.reset with
      hostPort := [.word 0x100400000002, .word 0x110000000000, .word 0x110000000002] } ∧
    countPayload { Config.standard with pkgCountOrder := .le } (State.countWord 3 State.reset) = [2, 0] ∧
    countPayload Config.standard (State.countWord 1 State.reset) = [0, 1] := by decide

/-- R194: a total whose count has no 2-byte form runs, with the packet's length, and draws one free value. -/
theorem test_cmd_packages_large :
    (nextState (exec (.cmdUpdateDataPackages 65537) State.reset)).map
        (fun t => (t.hostPort.head?, t.hostPort.length, t.draws)) =
      some (some (.word 0x100400000002), 3, State.reset.draws + 1) := by decide

/-- R192 with V-T-3, and V-T-4's payload. -/
theorem test_cmd_handshake :
    (nextState (exec .cmdHandshake State.reset)).map (fun t => (t.hostPort.head?, t.hostPort.length)) =
      some (some (.word 0x100A0000000D), 14) ∧
    (handshakePayload { Config.standard with hsPayloadNul := true }).length = 14 ∧
    encodePacket 0x0A 0 (handshakePayload Config.standard) =
      some [0xAA, 0x0A, 0, 0, 0, 0x0D, 0x42, 0x4F, 0x4F, 0x54, 0x4C, 0x4F, 0x41, 0x44, 0x45, 0x52, 0x5F, 0x56, 0x33,
        0x40, 0x34, 0x55] := by decide +kernel

/-- R193: 32 payload bytes. -/
theorem test_cmd_check_model_type :
    (nextState (exec (.cmdCheckModelType (List.replicate 32 9)) State.reset)).map
        (fun t => (t.hostPort.head?, t.hostPort.length, t.hostPort.getLast?)) =
      some (some (.word 0x100200000020), 33, some (.word 0x110000000009)) := by decide +kernel

/-- R195, R196: the sequence number in the arguments, the chunk padded to 1024 bytes with zeros. -/
theorem test_cmd_update :
    (nextState (exec (.cmdUpdate 0x0001 [0xAA, 0x55]) State.reset)).map
        (fun t => (t.hostPort.take 3, t.hostPort.length, t.hostPort.getLast?)) =
      some ([.word 0x100300010400, .word 0x1100000000AA, .word 0x110000000055], 1025, some (.word 0x110000000000)) := by
  decide +kernel

/-- R195: of more than 1024 file bytes the next 1024 are sent. -/
theorem test_cmd_update_long :
    chunkPayload (List.replicate 1024 7 ++ [8, 9]) = List.replicate 1024 7 := by decide +kernel

/-- V-R-1. -/
theorem test_reset :
    let s : State := { State.reset with
      txWire := [0xAA, 0x03], txQ := [0, 0, 0, 2, 0], txState := .data, txRem := 1, crc := 0x1021, rxState := .fixed
      errCode := 1, schedule := [.reset] }
    s.status = 0x0340 ∧ (after s).status = 0 ∧ (after s).txQ = [] ∧ (after s).crc = 0 ∧ (after s).txWire = [0xAA, 0x03] := by
  decide

/-- V-T-12, V-T-13. -/
theorem test_encode_packet :
    encodePacket 0x03 0x0001 [0xAA, 0x55, 0xAA, 0x55] = some [0xAA, 3, 0, 1, 0, 4, 0xAA, 0x55, 0xAA, 0x55, 0xD3, 0x25, 0x55] ∧
    encodePacket 0xAA 0xAAAA [0xAA] = some [0xAA, 0xAA, 0xAA, 0xAA, 0, 1, 0xAA, 0xAE, 0xAC, 0x55] := by decide +kernel

/-- V-D-18. -/
theorem test_decode_packet :
    decodePacket [0xAA, 0x42, 0, 6, 0] = none ∧ decodePacket [0xAA, 0x42, 0, 6, 0, 0, 0xE7, 0x4B] = none ∧
    decodePacket [0xAA, 0x42, 0, 6, 0, 0, 0xE7, 0x4B, 0x55, 0] = none ∧
    decodePacket [0x00, 0x42, 0, 6, 0, 0, 0xE7, 0x4B, 0x55] =
      some ⟨0x42, 0x0006, 0, [], 0xE74B, 0xE74B, 0x55, true, true⟩ := by decide +kernel

/-- R196, V-L1-3, V-L1-4. -/
theorem test_chunk_counts :
    totalChunks 0 = 0 ∧ totalChunks 1 = 1 ∧ totalChunks 1024 = 1 ∧ totalChunks 1025 = 2 ∧ totalChunks 3000 = 3 := by decide

/-! ### Witnesses: for each statement with hypotheses, a state and operands that meet them -/

theorem witness_DecodeOfEncodeIsTheInstruction :
    Instr.wf (.cmdUpdate 0xFFFF (List.replicate 1024 0xFF)) = true ∧ Instr.wf (.cmdUpdateDataPackages 0xFFFFFFFF) = true ∧
    Instr.wf (.cmdCheckModelType (List.replicate 32 0)) = true ∧ Instr.wf (.txStart 0xFF 0xFFFF 0xFFFF) = true := by
  decide +kernel

theorem witness_EncodeOfDecodeIsTheForm : decode (.word 0x10FFFFFFFFFF) = .ok (.txStart 0xFF 0xFFFF 0xFFFF) := by decide

/-- Each clause, at both ends of its ranges. -/
theorem witness_EveryWordIsDefinedOrReserved :
    (∀ op ∈ [(0x030000000000 : OpWord), 0x0F0000000000, 0x130000000000, 0x1F0000000000, 0x230000000000, 0x2F0000000000,
        0x310000000000, 0xFFFFFFFFFFFF].map (fun w => w.toNat / 2 ^ 40),
      0x03 ≤ op ∧ op ≤ 0x0F ∨ 0x13 ≤ op ∧ op ≤ 0x1F ∨ 0x23 ≤ op ∧ op ≤ 0x2F ∨ 0x31 ≤ op) ∧
    (∀ w ∈ [(0x000000000000 : OpWord), 0x300000000000], w.toNat / 2 ^ 40 ∈ [0x00, 0x01, 0x12, 0x21, 0x22, 0x30] ∧
      w.toNat % 2 ^ 40 = 0) ∧
    (∀ w ∈ [(0x000000000001 : OpWord), 0x308000000000], w.toNat / 2 ^ 40 ∈ [0x00, 0x01, 0x12, 0x21, 0x22, 0x30] ∧
      w.toNat % 2 ^ 40 ≠ 0) ∧
    (∀ w ∈ [(0x020000000000 : OpWord), 0x2000000000FF], w.toNat / 2 ^ 40 ∈ [0x02, 0x11, 0x20] ∧
      w.toNat % 2 ^ 40 / 2 ^ 8 = 0) ∧
    (∀ w ∈ [(0x020000000100 : OpWord), 0x20FFFFFFFFFF], w.toNat / 2 ^ 40 ∈ [0x02, 0x11, 0x20] ∧
      w.toNat % 2 ^ 40 / 2 ^ 8 ≠ 0) ∧
    (0x10FFFFFFFFFF : OpWord).toNat / 2 ^ 40 = 0x10 := by simp

theorem witness_StepRunsTheDecodedForm :
    (presenting 0x220000000000 State.reset).schedule = [.host] ∧ (presenting 0x220000000000 State.reset).held = none ∧
    (presenting 0x220000000000 State.reset).hostPort = [.word 0x220000000000] ∧
    decode (.word 0x220000000000) = .ok .rxAck := by decide

theorem witness_ReservedOpcodeRecordsCodeOne :
    (presenting 0x310000000000 State.reset).hostPort = [.word 0x310000000000] ∧
    opcodeField 0x310000000000 ∉ [0x00#8, 0x01#8, 0x02#8, 0x10#8, 0x11#8, 0x12#8, 0x20#8, 0x21#8, 0x22#8, 0x30#8] := by
  decide

theorem witness_ReservedBitsRecordCodeTwo :
    (opcodeField 0x308000000000 ∈ [0x00#8, 0x01#8, 0x12#8, 0x21#8, 0x22#8, 0x30#8] ∧ operandField 0x308000000000 ≠ 0) ∧
    (opcodeField 0x110000000100 ∈ [0x02#8, 0x11#8, 0x20#8] ∧ reservedFieldB 0x110000000100 ≠ 0) := by decide

/-- A state of the host's turn with one request on the port. -/
def requesting (code : Byte) (operands : List Byte) : State :=
  { State.reset with schedule := [.host], hostPort := [.request code operands] }

/-- Each clause: an unlisted code, operand bytes one too few or one too many, and the fewest a request runs with; a total of
65537 runs. -/
theorem witness_RequestsWithoutAMeaningAreRefused :
    (requesting 0x00 []).held = none ∧ (0x00#8 ∉ [0x02#8, 0x03#8, 0x04#8, 0x0A#8, 0x42#8, 0x45#8]) ∧
    (List.replicate 31 (0 : Byte)).length ≠ 32 ∧ (List.replicate 33 (0 : Byte)).length ≠ 32 ∧ [(0 : Byte)].length < 2 ∧
    [(0 : Byte), 0, 0].length ≠ 4 ∧ [(0 : Byte), 0, 0, 0, 0].length ≠ 4 ∧ [(0 : Byte)] ≠ [] ∧
    (0x45#8 ∈ [0x0A#8, 0x42#8, 0x45#8]) ∧ (List.replicate 32 (0 : Byte)).length = 32 ∧ 2 ≤ [(0 : Byte), 0].length ∧
    [(0 : Byte), 1, 0, 1].length = 4 ∧ decode (.request 0x04 [0, 1, 0, 1]) = .ok (.cmdUpdateDataPackages 65537) := by
  decide +kernel

theorem witness_ErrorRecordKeepsTheFirst :
    (∃ t, step (presenting 0x110000000000 State.reset) = .next t ∧ t.errCode ≠ State.reset.errCode) ∧
    (∃ t, step (presenting 0x300000000000 { State.reset with errCode := 4 }) = .next t ∧ t.errCode ≠ 4) ∧
    (∃ t, step { State.reset with errCode := 1, schedule := [.reset] } = .next t ∧ t.errCode ≠ 1) :=
  ⟨⟨_, rfl, by decide⟩, ⟨_, rfl, by decide⟩, ⟨_, rfl, by decide⟩⟩

/-- A frame open with one data byte to come in a nine-byte queue, as after V-T-31's first two words. -/
def nearlyFull : State := nineByteQueue openFrame

theorem nearlyFull_inv (q : List Byte) (h : Option HeldOp) (sched : List Turn) (port : List HostItem)
    (hq : q.length ≤ 9) (hh : ∀ cmd args len, h ≠ some (.txStart cmd args len)) :
    Inv { nearlyFull with txQ := q, held := h, schedule := sched, hostPort := port } := by
  constructor <;> simp_all [nearlyFull, nineByteQueue, openFrame, State.reset, Config.wf, Config.standard]

/-- A free port over an empty nine-byte queue, with a `TX_START` that may be held. -/
def emptyQueue (q : List Byte) (h : Option HeldOp) (sched : List Turn) (port : List HostItem) : State :=
  { nineByteQueue State.reset with txQ := q, held := h, schedule := sched, hostPort := port }

theorem emptyQueue_inv (q : List Byte) (h : Option HeldOp) (sched : List Turn) (port : List HostItem)
    (hq : q.length ≤ 9) (hh : ∀ b, h ≠ some (.txData b)) : Inv (emptyQueue q h sched port) := by
  constructor <;> simp_all [emptyQueue, nineByteQueue, State.reset, Config.wf, Config.standard]

/-- A completed frame of one byte, waiting. -/
def decodedFrame : State :=
  { State.reset with
    rxHave := true, rxDone := true
    last := some ⟨0x0A, 0x0006, 1, [0x7F], 0x1234, 0x1234, 0x55, true, true, false⟩ }

theorem decodedFrame_inv : Inv decodedFrame := by
  constructor <;> simp [decodedFrame, State.reset, Config.wf, Config.standard]
  constructor <;> rfl

theorem witness_StepKeepsTheInvariant :
    Inv { nearlyFull with schedule := [.host], hostPort := [.word 0x110000000002] } ∧
    ∃ t, step { nearlyFull with schedule := [.host], hostPort := [.word 0x110000000002] } = .next t :=
  ⟨nearlyFull_inv nearlyFull.txQ none [.host] [.word 0x110000000002] (by decide) nofun, _, rfl⟩

theorem witness_StepAlwaysHasANextState : (requesting 0x45 []).RequestsOk := by
  intro code operands h
  simp only [requesting, List.mem_singleton, HostItem.request.injEq] at h
  obtain ⟨rfl, rfl⟩ := h
  exact ⟨.cmdUpdateEnd, by decide⟩

theorem witness_ResetEventSetsTheResetValues : ({ nearlyFull with schedule := [.reset] } : State).schedule = [.reset] := rfl

theorem witness_CrcOperationsWriteCrcOnly :
    opcodeField 0x010000000010 = 0x01 ∧ operandField 0x010000000010 ≠ 0 ∧ opcodeField 0x010000000000 = 0x01 ∧
    operandField 0x010000000000 = 0 ∧ opcodeField 0x0200000001FF = 0x02 ∧ reservedFieldB 0x0200000001FF ≠ 0 ∧
    opcodeField 0x0200000000FF = 0x02 ∧ reservedFieldB 0x0200000000FF = 0 := by decide

/-- CRC operations with a serializer operation between them. -/
theorem witness_CrcOutIsTheCrcOfTheBytes :
    [Instr.crcInit, .txStart 0 0 0, .crcByte 0x41].filter
      (fun i => match i with | .crcInit => true | .crcByte _ => true | _ => false) = asmCrcBlock [0x41] := by decide

theorem witness_CrcLawsOfTheSpec : 0 < [(0x41 : Byte)].length ∧ 7 < 8 := by decide

/-- Each clause at the least queue room that performs and the most that holds. -/
theorem witness_TxStartEmitsHeaderAndFields :
    opcodeField 0x10FFFFFFFFFF = 0x10 ∧ nearlyFull.txState = .data ∧ (emptyQueue [] none [] []).txState = .idle ∧
    (emptyQueue [] none [] []).txQ.length + 9 ≤ (emptyQueue [] none [] []).cfg.txqCap ∧
    (emptyQueue [1, 2, 3] none [] []).txQ.length + 6 ≤ (emptyQueue [1, 2, 3] none [] []).cfg.txqCap ∧
    (emptyQueue [1] none [] []).cfg.txqCap < (emptyQueue [1] none [] []).txQ.length + 9 ∧
    (emptyQueue [1, 2, 3, 4] none [] []).cfg.txqCap < (emptyQueue [1, 2, 3, 4] none [] []).txQ.length + 6 := by decide

theorem witness_TxDataEmitsByteAndTail_counter :
    Inv { nearlyFull with txQ := [], held := none, schedule := [], hostPort := [] } ∧ nearlyFull.txState = .data :=
  ⟨nearlyFull_inv [] none [] [] (by decide) nofun, rfl⟩

theorem witness_TxDataEmitsByteAndTail :
    opcodeField 0x1100000000FF = 0x11 ∧ opcodeField 0x110000000100 = 0x11 ∧ State.reset.txState = .idle ∧
    (let s : State := { nearlyFull with txQ := [1, 2, 3, 4, 5] }
     s.txState = .data ∧ s.txRem = 1 ∧ s.txQ.length + 4 ≤ s.cfg.txqCap) ∧
    (let s : State := { nearlyFull with txRem := 2, txQ := [1, 2, 3, 4, 5, 6, 7, 8] }
     s.txState = .data ∧ s.txRem ≠ 1 ∧ s.txQ.length + 1 ≤ s.cfg.txqCap) ∧
    (let s : State := { nearlyFull with txQ := [1, 2, 3, 4, 5, 6] }
     s.txState = .data ∧ s.cfg.txqCap < s.txQ.length + (if s.txRem = 1 then 4 else 1)) := by decide

theorem witness_TxAbortDropsTheQueue :
    opcodeField 0x120000000000 = 0x12 ∧ operandField 0x120000000000 = 0 ∧ opcodeField 0x128000000000 = 0x12 ∧
    operandField 0x128000000000 ≠ 0 := by decide

theorem witness_HeldOperationBlocksThePort :
    (let s := emptyQueue [1] (some (.txStart 0x42 0 0)) [.host] []
     s.schedule = [.host] ∧ s.held = some (.txStart 0x42 0 0) ∧
       s.cfg.txqCap < s.txQ.length + (if (0 : U16) = 0 then 9 else 6)) ∧
    (let s : State := { nearlyFull with txQ := [1, 2, 3, 4, 5, 6], held := some (.txData 2), schedule := [.host] }
     s.schedule = [.host] ∧ s.held = some (.txData 2) ∧ s.cfg.txqCap < s.txQ.length + (if s.txRem = 1 then 4 else 1)) := by
  decide

theorem witness_HeldOperationPerformsWithRoom :
    (let s := emptyQueue [] (some (.txStart 0x42 0 0)) [.host] []
     Inv s ∧ s.schedule = [.host] ∧ s.held = some (.txStart 0x42 0 0) ∧
       s.txQ.length + (if (0 : U16) = 0 then 9 else 6) ≤ s.cfg.txqCap) ∧
    (let s : State := { nearlyFull with
       txQ := [1, 2, 3, 4, 5], held := some (.txData 2), schedule := [.host], hostPort := [] }
     Inv s ∧ s.schedule = [.host] ∧ s.held = some (.txData 2) ∧
       s.txQ.length + (if s.txRem = 1 then 4 else 1) ≤ s.cfg.txqCap) :=
  ⟨⟨emptyQueue_inv [] (some (.txStart 0x42 0 0)) [.host] [] (by decide) nofun, by decide⟩,
   ⟨nearlyFull_inv [1, 2, 3, 4, 5] (some (.txData 2)) [.host] [] (by decide) nofun, by decide⟩⟩

theorem witness_NineShiftsLiftAnyHold :
    let s := emptyQueue [1, 2, 3, 4, 5, 6, 7, 8, 9] (some (.txStart 0x42 0 0)) (List.replicate 9 .lineOut ++ [.host]) []
    Inv s ∧ s.held = some (.txStart 0x42 0 0) ∧ s.schedule = List.replicate 9 .lineOut ++ [.host] :=
  ⟨emptyQueue_inv _ _ _ _ (by decide) nofun, rfl, rfl⟩

theorem witness_TxShiftMovesTheHead :
    (emptyQueue [7] none [.lineOut] []).schedule = [.lineOut] ∧ (emptyQueue [7] none [.lineOut] []).txQ = [7] ∧
    (emptyQueue [] none [.lineOut] []).txQ = [] := by decide

theorem witness_WireIsFirstInFirstOut :
    (∃ t, step (emptyQueue [7] none [.lineOut] []) = .next t) ∧
    (∃ t, step (emptyQueue [7] none [.host] [.word 0x120000000000]) = .next t) ∧
    (∃ t, step (emptyQueue [7] none [.reset] []) = .next t) := ⟨⟨_, rfl⟩, ⟨_, rfl⟩, ⟨_, rfl⟩⟩

/-- `SEND 0x04, 0, [2]` with an `RX_BYTE` before it and a `CRC_BYTE` inside it. -/
theorem witness_SerializerEmitsTheEncodedPacket :
    let is : List Instr := [.rxByte 0xAA, .txStart 0x04 0 1, .crcByte 1, .txData 2]
    let s := emptyQueue [] none [.host, .lineOut, .host, .host] (is.map encode)
    s.txState = .idle ∧ s.held = none ∧ s.hostPort = is.map encode ∧ (∀ i ∈ is, i.isCommand = false) ∧
      is.filter Instr.isTx = sendInstrs 0x04 0 [2] ∧ (encodePacket 0x04 0 [2]).isSome = true ∧ .reset ∉ s.schedule := by
  decide +kernel

theorem witness_SerializerAndDeserializerAreIndependent :
    (∃ t, exec (.txData 2) nearlyFull = .next t) ∧ Instr.isTx (.txData 2) = true ∧
    (∃ t, exec (.rxByte 2) nearlyFull = .next t) ∧ Instr.isRx (.rxByte 2) = true :=
  ⟨exec_next _ _, rfl, exec_next _ _, rfl⟩

theorem witness_HuntAcceptsOnlyTheHeader : State.reset.rxState = .hunt := rfl

theorem witness_FixedCollectsFiveBytes :
    ∀ i ∈ [(0 : BitVec 17), 1, 2, 3, 4],
      ({ State.reset with rxState := .fixed, rxIdx := i } : State).rxState = .fixed ∧
      ({ State.reset with rxState := .fixed, rxIdx := i } : State).rxIdx = i := fun _ _ => ⟨rfl, rfl⟩

/-- The longest frame: its last data byte, its two CRC bytes, its trailer. -/
def longestBody (i : BitVec 17) : State := { State.reset with rxState := .body, rxLen := 0xFFFF, rxIdx := i }

theorem witness_BodyCollectsData :
    (longestBody 65534).rxState = .body ∧ (longestBody 65534).rxIdx.toNat < (longestBody 65534).rxLen.toNat := by decide

theorem witness_TailCollectsTheCrcField :
    (longestBody 65535).rxIdx.toNat = (longestBody 65535).rxLen.toNat ∧
    (longestBody 65536).rxIdx.toNat = (longestBody 65536).rxLen.toNat + 1 ∧
    (longestBody 65537).rxIdx.toNat = (longestBody 65537).rxLen.toNat + 2 := by decide

theorem witness_CompletionLatchesThePacket :
    (longestBody 65537).rxState = .body ∧ (longestBody 65537).rxIdx.toNat = (longestBody 65537).rxLen.toNat + 2 ∧
    awaitingTrailer.rxState = .body ∧ awaitingTrailer.rxIdx.toNat = awaitingTrailer.rxLen.toNat + 2 := by decide

theorem witness_CompletionLatchesThePacket_data : Inv awaitingTrailer := by
  constructor <;> simp [awaitingTrailer, State.reset, Config.wf, Config.standard]

theorem witness_RxAbortAndRxAckComplete :
    opcodeField 0x210000000001 = 0x21 ∧ operandField 0x210000000001 ≠ 0 ∧ opcodeField 0x210000000000 = 0x21 ∧
    opcodeField 0x220000000001 = 0x22 ∧ operandField 0x220000000001 ≠ 0 ∧ opcodeField 0x220000000000 = 0x22 := by decide

/-- The line-in delivers while the host port holds. -/
theorem witness_RxByteNeverHolds :
    (let s : State := { nearlyFull with held := some (.txData 2), schedule := [.lineIn], lineIn := [0xAA] }
     s.schedule = [.lineIn] ∧ s.lineIn = [0xAA]) ∧
    opcodeField 0x2000000001AA = 0x20 ∧ reservedFieldB 0x2000000001AA ≠ 0 ∧ opcodeField 0x2000000000AA = 0x20 ∧
    reservedFieldB 0x2000000000AA = 0 := by decide

theorem witness_DecodeNeedsExactlyAFrame :
    [(0xAA : Byte), 0x42, 0, 6, 0].length < 6 ∧ ([0xAA, 0x42, 0, 6, 0, 0] : List Byte)[4]? = some 0 ∧
    ([0xAA, 0x42, 0, 6, 0, 0] : List Byte)[5]? = some 0 := by decide

theorem witness_TrailerTakesNoPartInVerify :
    (decodePacket [0x00, 0x42, 0, 6, 0, 0, 0xE7, 0x4B, 0x55]).isSome = true := by decide +kernel

theorem witness_DecodeOfEncodeIsThePacket : (encodePacket 0xFF 0xFFFF [0xAA]).isSome = true := by decide +kernel

theorem witness_StreamedRoundTrip :
    State.reset.rxState = .hunt ∧ [(0xAA : Byte)].length ≤ State.reset.cfg.dataCap ∧
    (encodePacket 0xFF 0xFFFF [0xAA]).isSome = true ∧ 8 < [(0xAA : Byte), 1, 2, 3, 4, 5, 6, 7, 8].length := by decide +kernel

theorem witness_StreamAgreesWithDecode :
    State.reset.rxState = .hunt ∧ (∀ b ∈ [(0x00 : Byte), 0xFF, 0x55, 0x06], b ≠ 0xAA) ∧
    [(0xAA : Byte), 0x42, 0, 6, 0, 0, 0xE7, 0x4C, 0x00].head? = some 0xAA ∧
    (decodePacket [0xAA, 0x42, 0, 6, 0, 0, 0xE7, 0x4C, 0x00]).isSome = true := by decide +kernel

theorem witness_FrameTakesExactlyItsLength :
    State.reset.rxState = .hunt ∧ [(1 : Byte), 2, 3, 4].length ≤ (0x00 : Byte).toNat * 256 + (0x01 : Byte).toNat + 3 := by
  decide

/-- The first and the last byte of each range. -/
theorem witness_OneFlippedBitFailsVerify :
    State.reset.rxState = .hunt ∧ (encodePacket 0x42 0 [1, 2]).isSome = true ∧
    (∀ i ∈ [1, 3, 6, 7], 1 ≤ i ∧ i ≤ 3 ∨ 6 ≤ i ∧ i < 6 + [(1 : Byte), 2].length) ∧ 7 < 8 := by decide +kernel

theorem witness_UnspecifiedRegistersAreNeverSeen :
    Inv (emptyQueue [] none [.lineIn] []) ∧ SameSeen (emptyQueue [] none [.lineIn] [])
      { emptyQueue [] none [.lineIn] [] with txCrc := 1, rxCrc := 2, rxLen := 3, rxBuf := [4], rxRcrc := 5 } ∧
    ∃ t, step (emptyQueue [] none [.lineIn] []) = .next t :=
  ⟨emptyQueue_inv _ _ _ _ (by decide) nofun, by constructor <;> simp [emptyQueue, nineByteQueue, State.reset], _, rfl⟩

theorem witness_ReceiveFlagsChangeAsTabled :
    (∃ t, step { awaitingTrailer with schedule := [.lineIn], lineIn := [0x55] } = .next t) ∧
    (∃ t, step (presenting 0x220000000000 decodedFrame) = .next t) ∧
    (∃ t, step { decodedFrame with schedule := [.reset] } = .next t) := ⟨⟨_, rfl⟩, ⟨_, rfl⟩, ⟨_, rfl⟩⟩

/-- A `TX_START` that opens a frame, and a last `TX_DATA` that closes one. -/
theorem witness_TxBusyChangesAsTabled :
    (Inv (emptyQueue [] none [.host] [.word 0x100300000001]) ∧ (emptyQueue [] none [.host] [.word 0x100300000001]).txBusy = false ∧
      ∃ t, step (emptyQueue [] none [.host] [.word 0x100300000001]) = .next t ∧ t.txBusy = true) ∧
    (Inv { nearlyFull with txQ := [], held := none, schedule := [.host], hostPort := [.word 0x110000000002] } ∧
      ∃ t, step { nearlyFull with txQ := [], held := none, schedule := [.host], hostPort := [.word 0x110000000002] } =
        .next t ∧ t.txBusy = false) :=
  ⟨⟨emptyQueue_inv _ _ _ _ (by decide) nofun, rfl, _, rfl, rfl⟩,
   ⟨nearlyFull_inv [] none [.host] [.word 0x110000000002] (by decide) nofun, _, rfl, rfl⟩⟩

theorem witness_NopAndErrClrComplete :
    opcodeField 0x000000000001 = 0x00 ∧ operandField 0x000000000001 ≠ 0 ∧ opcodeField 0x300000000001 = 0x30 ∧
    operandField 0x300000000001 ≠ 0 ∧ opcodeField 0x300000000000 = 0x30 ∧ operandField 0x300000000000 = 0 := by decide

theorem witness_StatusWordLayout :
    State.reset.rxHave = false ∧ decodedFrame.rxHave = true ∧ decodedFrame.last.isSome = true ∧ Inv decodedFrame :=
  ⟨rfl, rfl, rfl, decodedFrame_inv⟩

theorem witness_ReadPortsShowTheState :
    (Inv (emptyQueue [] none [] []) ∧ (emptyQueue [] none [] []).rxHave = false) ∧
    (Inv decodedFrame ∧ decodedFrame.rxHave = true ∧ 0 < min 1 decodedFrame.cfg.dataCap ∧
      min 1 decodedFrame.cfg.dataCap ≤ 1) :=
  ⟨⟨emptyQueue_inv _ _ _ _ (by decide) nofun, rfl⟩, decodedFrame_inv, by decide⟩

/-- The greatest total with a stated count and the least without, a short chunk and one of more than 1024 bytes. -/
theorem witness_CommandRequestsIssueTheirPacket :
    CommandPacket State.reset (.cmdUpdateDataPackages 65536) 0x04 0 [0xFF, 0xFF] ∧
    (∃ p, p = (Config.freeWord State.reset.draws).toNat ∧ Instr.wf (.cmdUpdateDataPackages 65537) = true ∧
      CommandPacket State.reset (.cmdUpdateDataPackages 65537) 0x04 0 [BitVec.ofNat 8 (p / 256), BitVec.ofNat 8 (p % 256)]) ∧
    CommandPacket State.reset (.cmdUpdate 1 [7]) 0x03 1 ([7] ++ List.replicate 1023 0) ∧
    CommandPacket State.reset (.cmdUpdate 1 (List.replicate 1024 7 ++ [8])) 0x03 1 (List.replicate 1024 7) ∧
    CommandPacket State.reset .cmdUpdateEnd 0x45 0 [] := by
  refine ⟨⟨rfl, rfl, 65535, rfl, rfl⟩, ⟨_, rfl, rfl, rfl, rfl, _, rfl, rfl⟩, ⟨rfl, rfl, rfl⟩, ⟨rfl, rfl, ?_⟩, rfl, rfl, rfl⟩
  decide +kernel

/-- Each wire command; the greatest total with a stated count and the least without, an empty and a long chunk. -/
theorem witness_EveryCommandHasAPacket :
    ∀ i ∈ [.cmdHandshake, .cmdIntoBoot, .cmdUpdateEnd, .cmdCheckModelType (List.replicate 32 9),
        .cmdUpdateDataPackages 65536, .cmdUpdateDataPackages 65537, .cmdUpdate 0 [], .cmdUpdate 0 (List.replicate 1025 7)],
      Instr.wf i = true ∧ Instr.isCommand i = true := by decide +kernel

theorem witness_CommandRequestsEmitTheirPacket :
    let s := emptyQueue [] none [.host, .host, .lineOut] [encode .cmdIntoBoot]
    Instr.wf .cmdIntoBoot = true ∧ CommandPacket s .cmdIntoBoot 0x42 0 [] ∧ (encodePacket 0x42 0 []).isSome = true ∧
      s.txState = .idle ∧ s.held = none ∧ s.hostPort = [encode .cmdIntoBoot] ∧ .reset ∉ s.schedule :=
  ⟨rfl, ⟨rfl, rfl, rfl⟩, rfl, rfl, rfl, rfl, by decide⟩

/-- The same for an empty chunk and for one of more than 1024 bytes. -/
theorem witness_CommandRequestsEmitTheirPacket_chunks :
    (let i : Instr := .cmdUpdate 0 []
     let s := emptyQueue [] none [.host, .lineOut] [encode i]
     i.wf = true ∧ CommandPacket s i 0x03 0 (List.replicate 1024 0) ∧ (List.replicate 1024 (0 : Byte)).length ≤ 65535 ∧
       s.txState = .idle ∧ s.held = none ∧ s.hostPort = [encode i] ∧ .reset ∉ s.schedule) ∧
    (let i : Instr := .cmdUpdate 0 (List.replicate 1025 7)
     let s := emptyQueue [] none [.host, .lineOut] [encode i]
     i.wf = true ∧ CommandPacket s i 0x03 0 (List.replicate 1024 7) ∧ (List.replicate 1024 (7 : Byte)).length ≤ 65535 ∧
       s.txState = .idle ∧ s.held = none ∧ s.hostPort = [encode i] ∧ .reset ∉ s.schedule) := by
  refine ⟨⟨rfl, ⟨rfl, rfl, ?_⟩, ?_, rfl, rfl, rfl, ?_⟩, ⟨rfl, ⟨rfl, rfl, ?_⟩, ?_, rfl, rfl, rfl, ?_⟩⟩ <;> decide +kernel

theorem witness_RepliesAreReadFromTheArguments :
    replyOf 0x00E2 = .failed .dataVerification ∧ replyOf 0x00E6 = .failed .modelMismatch := by decide

theorem witness_HostActsOnlyOnVerifiedPackets : Inv decodedFrame ∧ decodedFrame.hostReply = some .ack :=
  ⟨decodedFrame_inv, by decide⟩

end Sys2Proof.Tests
end

section
/-! The STATUS word, field by field (R49). Every field stands at its own bits, so a bit of the word is the disjunction of the
fields' bits at that position, and each field is read back by looking at its positions. -/

namespace Sys2Proof.Machine

/-- A field of `n` bits placed at bit `k` of a word that has room for it. -/
theorem getLsbD_setWidth_shiftLeft {n k : Nat} (f : BitVec n) (hk : k + n ≤ 16) (i : Nat) :
    (f.setWidth 16 <<< k).getLsbD i = (decide (k ≤ i) && f.getLsbD (i - k)) := by
  have hlt : f.getLsbD (i - k) = true → i - k < n := BitVec.lt_of_getLsbD
  rw [BitVec.getLsbD_shiftLeft, BitVec.getLsbD_setWidth]
  grind

/-- A one-bit field is at its own bit only. -/
theorem getLsbD_statusBit (b : Bool) {k : Nat} (hk : k < 16) (i : Nat) :
    (statusBit b k).getLsbD i = (decide (i = k) && b) := by
  rw [statusBit, getLsbD_setWidth_shiftLeft _ hk, BitVec.getLsbD_ofBool]
  grind

/-- Bit `i` of STATUS: the field that covers position `i` (R49). -/
theorem State.getLsbD_status (s : State) (i : Nat) :
    s.status.getLsbD i =
      (decide (i = 0) && s.rxDone || decide (i = 1) && s.rxOvr || decide (i = 2) && s.rxHave ||
        decide (i = 3) && s.statusVerify || decide (i = 4) && s.statusTrlOk || decide (i = 5) && s.statusTrunc ||
        decide (6 ≤ i) && s.rxState.code.getLsbD (i - 6) || decide (i = 8) && s.txBusy ||
        decide (9 ≤ i) && s.errCode.getLsbD (i - 9)) := by
  simp only [State.status, BitVec.getLsbD_or, getLsbD_setWidth_shiftLeft _ (by decide : 6 + 2 ≤ 16),
    getLsbD_setWidth_shiftLeft _ (by decide : 9 + 3 ≤ 16), getLsbD_statusBit _ (by decide : 0 < 16),
    getLsbD_statusBit _ (by decide : 1 < 16), getLsbD_statusBit _ (by decide : 2 < 16),
    getLsbD_statusBit _ (by decide : 3 < 16), getLsbD_statusBit _ (by decide : 4 < 16),
    getLsbD_statusBit _ (by decide : 5 < 16), getLsbD_statusBit _ (by decide : 8 < 16)]

/-- The one-bit fields. -/
theorem State.status_flags (s : State) :
    s.status.getLsbD 0 = s.rxDone ∧ s.status.getLsbD 1 = s.rxOvr ∧ s.status.getLsbD 2 = s.rxHave ∧
    s.status.getLsbD 3 = s.statusVerify ∧ s.status.getLsbD 4 = s.statusTrlOk ∧ s.status.getLsbD 5 = s.statusTrunc ∧
    s.status.getLsbD 8 = s.txBusy := by
  simp only [State.getLsbD_status]
  simp

/-- A field of several bits, compared bit by bit. -/
theorem State.status_field_eq {s : State} {k n : Nat} {f : BitVec n}
    (h : ∀ i < n, s.status.getLsbD (k + i) = f.getLsbD i) : s.status.extractLsb' k n = f :=
  BitVec.eq_of_getLsbD_eq fun i hi => by simpa [hi] using h i hi

theorem State.status_rxState (s : State) : s.status.extractLsb' 6 2 = s.rxState.code := by
  refine State.status_field_eq fun i hi => ?_
  rw [State.getLsbD_status]
  interval_cases i <;> simp

theorem State.status_errCode (s : State) : s.status.extractLsb' 9 3 = s.errCode := by
  refine State.status_field_eq fun i hi => ?_
  rw [State.getLsbD_status]
  interval_cases i <;> simp

theorem State.status_reserved (s : State) : s.status.extractLsb' 12 4 = 0 := by
  refine State.status_field_eq fun i hi => ?_
  rw [State.getLsbD_status]
  interval_cases i <;> simp

/-- The outcome bits are gated by `rx_have`. -/
theorem State.status_outcome_of_not_have {s : State} (h : s.rxHave = false) : s.status.extractLsb' 3 3 = 0 := by
  refine State.status_field_eq fun i hi => ?_
  rw [State.getLsbD_status]
  interval_cases i <;> simp [statusVerify, statusTrlOk, statusTrunc, h]

/-- While a frame is there, the outcome bits are those of its registers. -/
theorem State.status_outcome_of_have {s : State} {p : LastPacket} (h : s.rxHave = true) (hp : s.last = some p) :
    s.status.getLsbD 3 = p.verify ∧ s.status.getLsbD 4 = p.trlOk ∧ s.status.getLsbD 5 = p.trunc := by
  obtain ⟨-, -, -, hverify, htrlOk, htrunc, -⟩ := s.status_flags
  rw [hverify, htrlOk, htrunc]
  simp [statusVerify, statusTrlOk, statusTrunc, h, hp]

theorem State.txBusy_iff (s : State) : s.txBusy = true ↔ s.txState = .data := by
  simp [State.txBusy]

theorem RxState.code_eq_iff (a b : RxState) : a.code = b.code ↔ a = b := by
  cases a <;> cases b <;> decide

theorem RxState.code_ne_three (r : RxState) : r.code ≠ 3 := by
  cases r <;> decide

theorem State.status_applyReset (s : State) : s.applyReset.status = 0 := by
  simp [State.status, statusBit, statusVerify, statusTrlOk, statusTrunc, State.txBusy, RxState.code]

/-- Settles O49: each field read back at its own bits; the codes of `rx_state` differ and none is 3. -/
theorem statusWordLayout : Obligations.StatusWordLayout := by
  intro s
  obtain ⟨hdone, hovr, hhave, -, -, -, hbusy⟩ := s.status_flags
  have hcode (r : RxState) : s.rxState = r ↔ s.status.extractLsb' 6 2 = r.code := by
    rw [s.status_rxState, RxState.code_eq_iff]
  have hrange (hi : Inv s) : s.status.extractLsb' 9 3 ≤ 4 := by
    rw [s.status_errCode]
    exact hi.err_range
  exact ⟨hdone, hovr, hhave, State.status_outcome_of_not_have, fun _ => State.status_outcome_of_have,
    hcode .hunt, hcode .fixed, hcode .body, s.status_rxState ▸ s.rxState.code_ne_three,
    by rw [hbusy, s.txBusy_iff], s.status_errCode, hrange, s.status_reserved, s.status_applyReset⟩

end Sys2Proof.Machine
end

section
/-! What the read ports of the last decoded packet show (R42, R48, R166). -/

namespace Sys2Proof.Machine

theorem readLast_absent {s : State} (f : LastPacket → PortValue) (h : s.rxHave = false) :
    readLast f s = .error .lastAbsent := by
  rw [readLast, lastDecoded_absent h]
  rfl

theorem readLast_have {s : State} {p : LastPacket} (f : LastPacket → PortValue) (h : s.rxHave = true)
    (hp : s.last = some p) : readLast f s = .ok (f p) := by
  rw [readLast, lastDecoded_have h hp]
  rfl

theorem bufRead_absent {s : State} (i : Nat) (h : s.rxHave = false) : bufRead i s = .error .lastAbsent := by
  simp [bufRead, lastDecoded_absent h]

theorem bufRead_of_getElem? {s : State} {p : LastPacket} {i : Nat} {b : Byte} (h : s.rxHave = true)
    (hp : s.last = some p) (hb : p.data[i]? = some b) : bufRead i s = .ok (.byte b) := by
  simp [bufRead, lastDecoded_have h hp, hb]

theorem bufRead_of_length_le {s : State} {p : LastPacket} {i : Nat} (h : s.rxHave = true) (hp : s.last = some p)
    (hi : p.data.length ≤ i) : bufRead i s = .error .bufIndexOutside := by
  simp [bufRead, lastDecoded_have h hp, hi]

/-- Settles O50: the ports that read the last packet answer its registers while it is there; the invariant supplies the
packet and its number of stored bytes. -/
theorem readPortsShowTheState : Obligations.ReadPortsShowTheState := by
  intro s hi
  refine ⟨rfl, rfl, rfl, rfl, fun h => ?absent, fun h => ?present⟩
  case absent =>
    exact ⟨readLast_absent _ h, readLast_absent _ h, readLast_absent _ h, readLast_absent _ h, readLast_absent _ h,
      readLast_absent _ h, fun i => bufRead_absent i h⟩
  case present =>
    obtain ⟨p, hp⟩ := Option.isSome_iff_exists.1 (hi.have_last ▸ h)
    have hlen : p.data.length = min p.len.toNat s.cfg.dataCap := (hi.last_ok p hp).data_length
    refine ⟨p, hp, readLast_have _ h hp, readLast_have _ h hp, readLast_have _ h hp, readLast_have _ h hp,
      readLast_have _ h hp, readLast_have _ h hp, fun i hlt => ?stored, fun i hle => ?outside⟩
    case stored =>
      have hb : p.data[i]? = some (p.data[i]'(hlen ▸ hlt)) := List.getElem?_eq_getElem _
      exact ⟨_, hb, bufRead_of_getElem? h hp hb⟩
    case outside => exact bufRead_of_length_le h hp (hlen ▸ hle)

end Sys2Proof.Machine
end

section
/-! The two errors of the decoder (R88, R89): which words are reserved, by opcode and format, and what the host's turn does
with one (R221). -/

namespace Sys2Proof.Machine

/-- The opcode as a byte, from its number. -/
theorem opcodeField_eq_ofNat {w : OpWord} {n : Nat} (h : (opcodeField w).toNat = n) : opcodeField w = BitVec.ofNat 8 n := by
  rw [← h, BitVec.ofNat_toNat, BitVec.setWidth_eq]

theorem decodeZ_of_operand {w : OpWord} (i : Instr) (h : operandField w ≠ 0) : decodeZ i w = .error .reservedBits :=
  if_neg h

theorem decodeB_of_reserved {w : OpWord} (f : Byte → Instr) (h : reservedFieldB w ≠ 0) :
    decodeB f w = .error .reservedBits :=
  if_neg h

/-- R88: every arm of the opcode map but the last has its opcode in the list. -/
theorem decodeWord_reservedOpcode {w : OpWord}
    (h : opcodeField w ∉ [0x00#8, 0x01#8, 0x02#8, 0x10#8, 0x11#8, 0x12#8, 0x20#8, 0x21#8, 0x22#8, 0x30#8]) :
    decodeWord w = .error .reservedOpcode := by
  unfold decodeWord
  split
  case h_11 => rfl
  all_goals
    next hop => rw [opcodeField_eq_ofNat hop] at h; exact absurd (by decide) h

/-- The opcodes of format `Z` (R86). -/
theorem decodeWord_formatZ {w : OpWord} (h : opcodeField w ∈ [0x00#8, 0x01#8, 0x12#8, 0x21#8, 0x22#8, 0x30#8]) :
    ∃ i, decodeWord w = decodeZ i w := by
  simp only [List.mem_cons, List.not_mem_nil, or_false] at h
  obtain h | h | h | h | h | h := h <;> exact ⟨_, by rw [decodeWord, h]; rfl⟩

/-- The opcodes of format `B` (R86). -/
theorem decodeWord_formatB {w : OpWord} (h : opcodeField w ∈ [0x02#8, 0x11#8, 0x20#8]) :
    ∃ f, decodeWord w = decodeB f w := by
  simp only [List.mem_cons, List.not_mem_nil, or_false] at h
  obtain h | h | h := h <;> exact ⟨_, by rw [decodeWord, h]; rfl⟩

/-- R89: the reserved bits are those of the opcode's format. -/
theorem decodeWord_reservedBits {w : OpWord}
    (h : opcodeField w ∈ [0x00#8, 0x01#8, 0x12#8, 0x21#8, 0x22#8, 0x30#8] ∧ operandField w ≠ 0 ∨
      opcodeField w ∈ [0x02#8, 0x11#8, 0x20#8] ∧ reservedFieldB w ≠ 0) :
    decodeWord w = .error .reservedBits := by
  obtain ⟨hop, hbits⟩ | ⟨hop, hbits⟩ := h
  · obtain ⟨i, hi⟩ := decodeWord_formatZ hop
    rw [hi, decodeZ_of_operand i hbits]
  · obtain ⟨f, hf⟩ := decodeWord_formatB hop
    rw [hf, decodeB_of_reserved f hbits]

/-- The host's turn on a free port presents the next form, with the form and the turn consumed (R10, R68). -/
theorem step_eq_acceptItem {s : State} {sched : List Turn} {item : HostItem} {rest : List HostItem}
    (hs : s.schedule = .host :: sched) (hh : s.held = none) (hp : s.hostPort = item :: rest) :
    step s = acceptItem item { s with schedule := sched, hostPort := rest } := by
  simp only [step, hs, takeTurn, hostStep, hh, hp]

theorem acceptItem_of_decode_error {item : HostItem} {r : Reject} (s : State) (h : decode item = .error r) :
    acceptItem item s = rejectItem r s := by
  rw [acceptItem, h]

/-- A word with a reserved opcode, accepted in any state (R88, R221). -/
theorem acceptItem_reservedOpcode {w : OpWord} (s : State) (h : decodeWord w = .error .reservedOpcode) :
    acceptItem (.word w) s = .next { s with errCode := if s.errCode = 0 then 1 else s.errCode } := by
  rw [acceptItem_of_decode_error (item := .word w) s h, rejectItem, raise_eq, OpError.code]

/-- A word with a reserved bit set, accepted in any state (R89, R221). -/
theorem acceptItem_reservedBits {w : OpWord} (s : State) (h : decodeWord w = .error .reservedBits) :
    acceptItem (.word w) s = .next { s with errCode := if s.errCode = 0 then 2 else s.errCode } := by
  rw [acceptItem_of_decode_error (item := .word w) s h, rejectItem, raise_eq, OpError.code]

/-- Settles O6: no arm of the opcode map takes the word, and the port records the error in place of an operation. -/
theorem reservedOpcodeRecordsCodeOne : Obligations.ReservedOpcodeRecordsCodeOne := by
  intro s sched w rest hs hh hp hop
  rw [step_eq_acceptItem hs hh hp, acceptItem_reservedOpcode _ (decodeWord_reservedOpcode hop)]

/-- Settles O7: the word's format rejects its operand bits before any operation, and so any state check, is reached. -/
theorem reservedBitsRecordCodeTwo : Obligations.ReservedBitsRecordCodeTwo := by
  intro s sched w rest hs hh hp hbits
  rw [step_eq_acceptItem hs hh hp, acceptItem_reservedBits _ (decodeWord_reservedBits hbits)]

end Sys2Proof.Machine
end

section
/-! The CRC step in arithmetic on numbers (R110): doubling modulo 2^16 is the shift, a quotient's parity is bit 15. -/

namespace Sys2Proof.Machine

/-- One iteration of R110 on numbers. -/
def crcShiftNat (v : Nat) : Nat :=
  if v / 0x8000 % 2 = 1 then (v * 2 % 0x10000) ^^^ 0x1021 else v * 2 % 0x10000

theorem shiftLeft_one_toNat (v : U16) : (v <<< 1).toNat = v.toNat * 2 % 0x10000 := by
  rw [BitVec.toNat_shiftLeft, Nat.shiftLeft_eq, Nat.pow_one]

/-- Bit 15 before the shift, by division. -/
theorem getLsbD_fifteen_iff (v : U16) : v.getLsbD 15 = true ↔ v.toNat / 0x8000 % 2 = 1 := by
  rw [← BitVec.testBit_toNat, Nat.testBit_eq_decide_div_mod_eq, decide_eq_true_iff]

theorem crcShift_toNat (v : U16) : (crcShift v).toNat = crcShiftNat v.toNat := by
  by_cases hbit : v.getLsbD 15 = true
  case pos =>
    rw [crcShift, if_pos hbit, crcShiftNat, if_pos ((getLsbD_fifteen_iff v).1 hbit), BitVec.toNat_xor, shiftLeft_one_toNat]
    rfl
  case neg =>
    rw [crcShift, if_neg hbit, crcShiftNat, if_neg (mt (getLsbD_fifteen_iff v).2 hbit), shiftLeft_one_toNat]

/-- As many iterations as a list has entries, whatever they are. -/
theorem crcShifts_length_toNat {α : Type} (l : List α) (v : U16) :
    (crcShifts l.length v).toNat = l.foldl (fun n _ => crcShiftNat n) v.toNat := by
  induction l generalizing v with
  | nil => rfl
  | cons _ l ih => rw [List.length_cons, crcShifts, ih, crcShift_toNat, List.foldl_cons]

/-- Settles O15: the byte enters as `b * 256`, and each of the eight iterations is the one on numbers. -/
theorem crcStepFollowsTheAlgorithm : Obligations.CrcStepFollowsTheAlgorithm := by
  intro c b
  have hin : (c ^^^ joinBytes b 0).toNat = c.toNat ^^^ (b.toNat * 256) := by simp [joinBytes_toNat]
  calc (crcStep c b).toNat
      = (List.range 8).foldl (fun n _ => crcShiftNat n) (c ^^^ joinBytes b 0).toNat :=
        crcShifts_length_toNat (List.range 8) _
    _ = (List.range 8).foldl (fun n _ => crcShiftNat n) (c.toNat ^^^ (b.toNat * 256)) := by rw [hin]

end Sys2Proof.Machine
end

section
/-! The words of `CRC_INIT` and `CRC_BYTE` (R113, R114): by format, an operation or a rejected word. -/

namespace Sys2Proof.Machine

theorem acceptItem_of_decode_ok {item : HostItem} {i : Instr} (s : State) (h : decode item = .ok i) :
    acceptItem item s = exec i s := by
  rw [acceptItem, h]

/-- A word of format `Z`: its operation, or code 2 when an operand bit is set (R85, R89, R221). -/
theorem acceptItem_of_decodeZ {w : OpWord} {i : Instr} (s : State) (h : decodeWord w = decodeZ i w) :
    acceptItem (.word w) s =
      if operandField w = 0 then exec i s
      else .next { s with errCode := if s.errCode = 0 then 2 else s.errCode } := by
  split
  case isTrue hz => exact acceptItem_of_decode_ok (item := .word w) s (h.trans (if_pos hz))
  case isFalse hnz => exact acceptItem_reservedBits s (h.trans (decodeZ_of_operand i hnz))

/-- A word of format `B`: its operation, or code 2 when a reserved bit is set (R85, R89, R221). -/
theorem acceptItem_of_decodeB {w : OpWord} {f : Byte → Instr} (s : State) (h : decodeWord w = decodeB f w) :
    acceptItem (.word w) s =
      if reservedFieldB w = 0 then exec (f (byteField w)) s
      else .next { s with errCode := if s.errCode = 0 then 2 else s.errCode } := by
  split
  case isTrue hz => exact acceptItem_of_decode_ok (item := .word w) s (h.trans (if_pos hz))
  case isFalse hnz => exact acceptItem_reservedBits s (h.trans (decodeB_of_reserved f hnz))

theorem decodeWord_crcInit {w : OpWord} (h : opcodeField w = 0x01) : decodeWord w = decodeZ .crcInit w := by
  rw [decodeWord, h]
  rfl

theorem decodeWord_crcByte {w : OpWord} (h : opcodeField w = 0x02) : decodeWord w = decodeB .crcByte w := by
  rw [decodeWord, h]
  rfl

theorem exec_crcInit (s : State) : exec .crcInit s = .next { s with crc := 0 } := rfl

theorem exec_crcByte (b : Byte) (s : State) : exec (.crcByte b) s = .next { s with crc := crcStep s.crc b } := rfl

/-- No iteration feeds back from 0. -/
theorem crcStep_zero_zero : crcStep 0 0 = 0 := by decide

/-- Settles O16: each opcode's word is one of its format, and each operation writes `crc` alone. -/
theorem crcOperationsWriteCrcOnly : Obligations.CrcOperationsWriteCrcOnly :=
  fun s b => ⟨exec_crcInit s, exec_crcByte b s, crcStep_zero_zero,
    fun _ hop => acceptItem_of_decodeZ s (decodeWord_crcInit hop),
    fun _ hop => acceptItem_of_decodeB s (decodeWord_crcByte hop)⟩

end Sys2Proof.Machine
end

section
/-! The serializer's instructions by `tx_state` (R133, R134, R138), and `TX_ABORT`'s operation word. -/

namespace Sys2Proof.Machine

theorem exec_txStart_of_data {s : State} (cmd : Byte) (args len : U16) (h : s.txState = .data) :
    exec (.txStart cmd args len) s = .next (s.raise .txBusy) := by
  rw [exec, execTxStart, h]

theorem exec_txStart_of_idle {s : State} (cmd : Byte) (args len : U16) (h : s.txState = .idle) :
    exec (.txStart cmd args len) s = .next (txStartOrHold cmd args len s) := by
  rw [exec, execTxStart, h]

theorem exec_txData_of_idle {s : State} (b : Byte) (h : s.txState = .idle) :
    exec (.txData b) s = .next (s.raise .txIdle) := by
  rw [exec, execTxData, h]

theorem exec_txData_of_data {s : State} (b : Byte) (h : s.txState = .data) :
    exec (.txData b) s = .next (txDataOrHold b s) := by
  rw [exec, execTxData, h]

theorem decodeWord_txAbort {w : OpWord} (h : opcodeField w = 0x12) : decodeWord w = decodeZ .txAbort w := by
  rw [decodeWord, h]
  rfl

theorem exec_txAbort (s : State) : exec .txAbort s = .next { s with txState := .idle, txRem := 0, txQ := [] } := rfl

/-- Settles O23: the opcode's word is of format `Z`, and the operation writes three registers of the serializer. -/
theorem txAbortDropsTheQueue : Obligations.TxAbortDropsTheQueue :=
  fun s => ⟨exec_txAbort s, fun _ hop => acceptItem_of_decodeZ s (decodeWord_txAbort hop)⟩

end Sys2Proof.Machine
end

section
/-! The two sides of the block are independent (R141): a serializer operation commutes with replacing the deserializer's
registers and `crc`, and a deserializer operation with replacing the serializer's and `crc`. Every branch condition reads
registers that the replacement keeps, so both sides take the same branch, and there they write the same registers. -/

namespace Sys2Proof.Machine

@[simp] theorem withRxOf_txState (s r : State) : (s.withRxOf r).txState = s.txState := rfl

@[simp] theorem withTxOf_rxState (s r : State) : (s.withTxOf r).rxState = s.rxState := rfl

theorem raise_withRxOf (e : OpError) (s r : State) : (s.withRxOf r).raise e = (s.raise e).withRxOf r := by
  rw [raise_eq, raise_eq]
  rfl

theorem txStartPerform_withRxOf (cmd : Byte) (args len : U16) (s r : State) :
    txStartPerform cmd args len (s.withRxOf r) = (txStartPerform cmd args len s).withRxOf r := by
  rw [txStartPerform, txStartPerform, apply_ite (State.withRxOf · r)]
  rfl

/-- The room test reads the queue and its capacity. -/
theorem txStartOrHold_withRxOf (cmd : Byte) (args len : U16) (s r : State) :
    txStartOrHold cmd args len (s.withRxOf r) = (txStartOrHold cmd args len s).withRxOf r := by
  rw [txStartOrHold, txStartPerform_withRxOf, txStartOrHold, apply_ite (State.withRxOf · r)]
  rfl

theorem txDataPerform_withRxOf (b : Byte) (s r : State) :
    txDataPerform b (s.withRxOf r) = (txDataPerform b s).withRxOf r := by
  rw [txDataPerform, txDataPerform, apply_ite (State.withRxOf · r)]
  rfl

theorem txDataOrHold_withRxOf (b : Byte) (s r : State) :
    txDataOrHold b (s.withRxOf r) = (txDataOrHold b s).withRxOf r := by
  rw [txDataOrHold, txDataPerform_withRxOf, txDataOrHold, apply_ite (State.withRxOf · r)]
  rfl

/-- R141, the serializer: no operation reads or writes the deserializer's state. -/
theorem exec_withRxOf {i : Instr} {s t : State} (r : State) (hi : i.isTx = true) (h : exec i s = .next t) :
    exec i (s.withRxOf r) = .next (t.withRxOf r) := by
  cases i with
  | txStart cmd args len =>
    cases hx : s.txState with
    | data =>
      cases (exec_txStart_of_data cmd args len hx).symm.trans h
      rw [exec_txStart_of_data cmd args len (by simpa), raise_withRxOf]
    | idle =>
      cases (exec_txStart_of_idle cmd args len hx).symm.trans h
      rw [exec_txStart_of_idle cmd args len (by simpa), txStartOrHold_withRxOf]
  | txData b =>
    cases hx : s.txState with
    | idle =>
      cases (exec_txData_of_idle b hx).symm.trans h
      rw [exec_txData_of_idle b (by simpa), raise_withRxOf]
    | data =>
      cases (exec_txData_of_data b hx).symm.trans h
      rw [exec_txData_of_data b (by simpa), txDataOrHold_withRxOf]
  | txAbort => cases h; rfl
  | _ => cases hi

theorem rxHunt_withTxOf (b : Byte) (s r : State) : rxHunt b (s.withTxOf r) = (rxHunt b s).withTxOf r := by
  rw [rxHunt, rxHunt, apply_ite (State.withTxOf · r)]
  rfl

theorem rxFixed_withTxOf (b : Byte) (s r : State) : rxFixed b (s.withTxOf r) = (rxFixed b s).withTxOf r := by
  rw [rxFixed, rxFixed, apply_ite (State.withTxOf · r)]
  rfl

theorem rxData_withTxOf (b : Byte) (s r : State) : rxData b (s.withTxOf r) = (rxData b s).withTxOf r := rfl

theorem rxTail_withTxOf (b : Byte) (s r : State) : rxTail b (s.withTxOf r) = (rxTail b s).withTxOf r := by
  rw [rxTail, rxTail, apply_ite (State.withTxOf · r), apply_ite (State.withTxOf · r)]
  rfl

/-- One received byte, in each of the three states of R154. -/
theorem rxDeliver_withTxOf (b : Byte) (s r : State) : rxDeliver b (s.withTxOf r) = (rxDeliver b s).withTxOf r := by
  simp only [rxDeliver, withTxOf_rxState]
  cases s.rxState with
  | hunt => exact rxHunt_withTxOf b s r
  | fixed => exact rxFixed_withTxOf b s r
  | body =>
    rw [rxData_withTxOf, rxTail_withTxOf, apply_ite (State.withTxOf · r)]
    rfl

/-- R141, the deserializer: no operation reads or writes the serializer's state. -/
theorem exec_withTxOf {i : Instr} {s t : State} (r : State) (hi : i.isRx = true) (h : exec i s = .next t) :
    exec i (s.withTxOf r) = .next (t.withTxOf r) := by
  cases i with
  | rxByte b => cases h; exact congrArg _ (rxDeliver_withTxOf b s r)
  | rxAbort => cases h; rfl
  | rxAck => cases h; rfl
  | _ => cases hi

/-- Settles O30: each side's operations commute with replacing the other side's registers. -/
theorem serializerAndDeserializerAreIndependent : Obligations.SerializerAndDeserializerAreIndependent :=
  fun _ _ r _ h => ⟨fun hi => exec_withRxOf r hi h, fun hi => exec_withTxOf r hi h⟩

end Sys2Proof.Machine
end

section
/-! The trailer in `decode` (R152). -/

namespace Sys2Proof.Machine

/-- Replacing the last byte of a sequence in `decode`'s shape replaces its trailer. -/
theorem frame_dropLast_append (h0 cmd a1 a0 l1 l0 c1 c0 t t' : Byte) (ds : List Byte) :
    (h0 :: cmd :: a1 :: a0 :: l1 :: l0 :: (ds ++ [c1, c0, t])).dropLast ++ [t'] =
      h0 :: cmd :: a1 :: a0 :: l1 :: l0 :: (ds ++ [c1, c0, t']) := by
  simp [List.dropLast_cons_of_ne_nil]

/-- Settles O39: a sequence that decodes ends in its trailer, and the shape with another trailer decodes to the same
fields. -/
theorem trailerTakesNoPartInVerify : Obligations.TrailerTakesNoPartInVerify := by
  intro raw d t h
  obtain ⟨h0, cmd, a1, a0, l1, l0, c1, c0, t0, ds, rfl, hl, rfl⟩ := decodePacket_some h
  rw [frame_dropLast_append, decodePacket_of_shape h0 cmd a1 a0 l1 l0 c1 c0 t ds hl]
  rfl

end Sys2Proof.Machine
end

section
/-! One received byte, by the sequencer's state and index (R155 to R160), and the joined bytes and the next index as
numbers. -/

namespace Sys2Proof.Machine

theorem exec_rxByte (b : Byte) (s : State) : exec (.rxByte b) s = .next (rxDeliver b s) := rfl

theorem rxDeliver_of_hunt {s : State} (b : Byte) (h : s.rxState = .hunt) : rxDeliver b s = rxHunt b s := by
  rw [rxDeliver, h]

theorem rxDeliver_of_fixed {s : State} (b : Byte) (h : s.rxState = .fixed) : rxDeliver b s = rxFixed b s := by
  rw [rxDeliver, h]

theorem rxDeliver_of_lt_rxLen {s : State} (b : Byte) (h : s.rxState = .body) (hlt : s.rxIdx.toNat < s.rxLen.toNat) :
    rxDeliver b s = rxData b s := by
  simp only [rxDeliver, h, if_pos hlt]

theorem rxDeliver_of_rxLen_le {s : State} (b : Byte) (h : s.rxState = .body) (hle : s.rxLen.toNat ≤ s.rxIdx.toNat) :
    rxDeliver b s = rxTail b s := by
  simp only [rxDeliver, h, if_neg (Nat.not_lt.2 hle)]

/-- The first four bytes of `FIXED`: stored at their index, which moves on. -/
theorem rxFixed_of_ne_four {s : State} {i : BitVec 17} (b : Byte) (hi : s.rxIdx = i) (hne : i ≠ 4) :
    rxFixed b s = { s with rxFix := s.rxFix.set i.toNat b, rxCrc := crcStep s.rxCrc b, rxIdx := i + 1 } := by
  subst hi
  exact if_neg hne

theorem rxFixed_of_eq_four {s : State} (b : Byte) (hi : s.rxIdx = 4) :
    rxFixed b s = { s with
      rxFix := { s.rxFix with lenLo := b }, rxCrc := crcStep s.rxCrc b,
      rxLen := joinBytes s.rxFix.lenHi b, rxState := .body, rxIdx := 0 } := by
  simp only [rxFixed, hi, if_true]
  rfl

theorem rxTail_of_eq_rxLen {s : State} (b : Byte) (hi : s.rxIdx.toNat = s.rxLen.toNat) :
    rxTail b s = { s with rxRcrc := joinBytes b (loByte s.rxRcrc), rxIdx := s.rxIdx + 1 } :=
  if_pos hi

theorem rxTail_of_eq_rxLen_add_one {s : State} (b : Byte) (hi : s.rxIdx.toNat = s.rxLen.toNat + 1) :
    rxTail b s = { s with rxRcrc := joinBytes (hiByte s.rxRcrc) b, rxIdx := s.rxIdx + 1 } := by
  rw [rxTail, if_neg (by omega), if_pos hi]

theorem rxTail_of_eq_rxLen_add_two {s : State} (b : Byte) (hi : s.rxIdx.toNat = s.rxLen.toNat + 2) :
    rxTail b s = rxComplete b s := by
  rw [rxTail, if_neg (by omega), if_neg (by omega)]

theorem joinBytes_eq_ofNat (h l : Byte) : joinBytes h l = BitVec.ofNat 16 (h.toNat * 256 + l.toNat) := by
  rw [← joinBytes_toNat, BitVec.ofNat_toNat, BitVec.setWidth_eq]

theorem add_one_eq_ofNat_toNat (i : BitVec 17) : i + 1 = BitVec.ofNat 17 (i.toNat + 1) := by
  rw [BitVec.ofNat_add, BitVec.ofNat_toNat, BitVec.setWidth_eq]
  rfl

/-- Settles O31: `HUNT` compares the byte with the header. -/
theorem huntAcceptsOnlyTheHeader : Obligations.HuntAcceptsOnlyTheHeader := by
  intro s b h
  rw [exec_rxByte, rxDeliver_of_hunt b h, rxHunt, apply_ite Host.Outcome.next]
  rfl

/-- Settles O32: four bytes go to their place by the index; the fifth joins the length's high byte. -/
theorem fixedCollectsFiveBytes : Obligations.FixedCollectsFiveBytes := by
  intro s b h
  have hfixed : exec (.rxByte b) s = .next (rxFixed b s) := by rw [exec_rxByte, rxDeliver_of_fixed b h]
  have hfield {i : BitVec 17} (hne : i ≠ 4) (hi : s.rxIdx = i) : exec (.rxByte b) s = .next { s with
      rxFix := s.rxFix.set i.toNat b, rxCrc := crcStep s.rxCrc b, rxIdx := i + 1 } := by
    rw [hfixed, rxFixed_of_ne_four b hi hne]
  refine ⟨hfield (by decide), hfield (by decide), hfield (by decide), hfield (by decide), fun hi => ?_⟩
  rw [hfixed, rxFixed_of_eq_four b hi, joinBytes_eq_ofNat]

/-- Settles O33: below the length the byte is data. -/
theorem bodyCollectsData : Obligations.BodyCollectsData := by
  intro s b h hlt
  rw [exec_rxByte, rxDeliver_of_lt_rxLen b h hlt, rxData, add_one_eq_ofNat_toNat]

theorem exec_rxByte_completes {s : State} (b : Byte) (h : s.rxState = .body) (hi : s.rxIdx.toNat = s.rxLen.toNat + 2) :
    exec (.rxByte b) s = .next (rxComplete b s) := by
  rw [exec_rxByte, rxDeliver_of_rxLen_le b h (by omega), rxTail_of_eq_rxLen_add_two b hi]

/-- Settles O34: each CRC byte replaces one half of `rx_rcrc` and keeps the other; the third byte completes the frame. -/
theorem tailCollectsTheCrcField : Obligations.TailCollectsTheCrcField := by
  intro s b h
  have htail (hle : s.rxLen.toNat ≤ s.rxIdx.toNat) : exec (.rxByte b) s = .next (rxTail b s) := by
    rw [exec_rxByte, rxDeliver_of_rxLen_le b h hle]
  refine ⟨fun hi => ?crcHigh, fun hi => ?crcLow, fun hi => ?trailer⟩
  case crcHigh =>
    rw [htail (by omega), rxTail_of_eq_rxLen b hi, joinBytes_eq_ofNat, loByte_toNat, add_one_eq_ofNat_toNat]
  case crcLow =>
    rw [htail (by omega), rxTail_of_eq_rxLen_add_one b hi, joinBytes_eq_ofNat, hiByte_toNat, add_one_eq_ofNat_toNat]
  case trailer =>
    exact ⟨rxComplete b s, completedPacket b s, exec_rxByte_completes b h hi, rfl, rfl, rfl, rfl, rfl, rfl⟩

/-- Under the invariant the buffer of a frame past its data holds all of it that fits. -/
theorem rxBuf_length_of_rxLen_le {s : State} (hinv : Inv s) (h : s.rxState = .body)
    (hle : s.rxLen.toNat ≤ s.rxIdx.toNat) : s.rxBuf.length = min s.rxLen.toNat s.cfg.dataCap := by
  rw [hinv.body_buf h, Nat.min_eq_right hle]

/-- Settles O35: completion latches the registers as they stand, and the invariant counts the buffer. -/
theorem completionLatchesThePacket : Obligations.CompletionLatchesThePacket := by
  intro s b h hi
  refine ⟨?_, fun hinv => rxBuf_length_of_rxLen_le hinv h (by omega)⟩
  rw [exec_rxByte_completes b h hi, rxComplete, completedPacket, joinBytes_eq_ofNat]
  rfl

end Sys2Proof.Machine
end

section
/-! `RX_ABORT` and `RX_ACK` (R161, R162). -/

namespace Sys2Proof.Machine

theorem exec_rxAbort (s : State) : exec .rxAbort s = .next { s with rxState := .hunt, rxIdx := 0 } := rfl

theorem exec_rxAck (s : State) : exec .rxAck s = .next { s with rxDone := false, rxOvr := false } := rfl

theorem decodeWord_rxAbort {w : OpWord} (h : opcodeField w = 0x21) : decodeWord w = decodeZ .rxAbort w := by
  rw [decodeWord, h]
  rfl

theorem decodeWord_rxAck {w : OpWord} (h : opcodeField w = 0x22) : decodeWord w = decodeZ .rxAck w := by
  rw [decodeWord, h]
  rfl

/-- Settles O36: both opcodes' words are of format `Z`, and each operation writes two registers. -/
theorem rxAbortAndRxAckComplete : Obligations.RxAbortAndRxAckComplete :=
  fun s => ⟨exec_rxAbort s, exec_rxAck s, fun _ hop => acceptItem_of_decodeZ s (decodeWord_rxAbort hop),
    fun _ hop => acceptItem_of_decodeZ s (decodeWord_rxAck hop)⟩

end Sys2Proof.Machine
end

section
/-! The words of `NOP` and `ERR_CLR` (R180, R181): both of format `Z`. -/

namespace Sys2Proof.Machine

theorem exec_nop (s : State) : exec .nop s = .next s := rfl

theorem exec_errClr (s : State) : exec .errClr s = .next { s with errCode := 0 } := rfl

theorem decodeWord_nop {w : OpWord} (h : opcodeField w = 0x00) : decodeWord w = decodeZ .nop w := by
  rw [decodeWord, h]
  rfl

theorem decodeWord_errClr {w : OpWord} (h : opcodeField w = 0x30) : decodeWord w = decodeZ .errClr w := by
  rw [decodeWord, h]
  rfl

/-- Settles O48: reserved bits reject a word before its operation, so an `ERR_CLR` that carries them clears nothing. -/
theorem nopAndErrClrComplete : Obligations.NopAndErrClrComplete :=
  fun s => ⟨exec_nop s, exec_errClr s, fun _ hop => acceptItem_of_decodeZ s (decodeWord_nop hop),
    fun _ hop => acceptItem_of_decodeZ s (decodeWord_errClr hop)⟩

end Sys2Proof.Machine
end

section
/-! The `RESET` event as a step, and the read ports after it (R240, R241). -/

namespace Sys2Proof.Machine

/-- A reset turn is consumed, and the event changes the state with no condition on it (R240). -/
theorem step_eq_applyReset {s : State} {sched : List Turn} (hs : s.schedule = .reset :: sched) :
    step s = .next (State.applyReset { s with schedule := sched }) := by
  simp only [step, hs, takeTurn]

/-- The ports of the last-decoded registers other than its data fault while `rx_have` is 0 (R42, R48). -/
theorem readPort_lastRegister_absent {s : State} (h : s.rxHave = false) :
    ∀ p ∈ [ReadPort.lastCmd, .lastArgs, .lastLen, .lastRcrc, .lastCcrc, .lastTrailer],
      readPort p s = .error .lastAbsent := by
  simp only [List.forall_mem_cons, List.not_mem_nil, false_implies, implies_true, and_true]
  exact ⟨readLast_absent _ h, readLast_absent _ h, readLast_absent _ h, readLast_absent _ h, readLast_absent _ h,
    readLast_absent _ h⟩

/-- Settles O13: the elements are those `applyReset` writes or keeps, STATUS is 0 after it, and with `rx_have` 0 the
last-decoded registers are absent. -/
theorem resetEventSetsTheResetValues : Obligations.ResetEventSetsTheResetValues := by
  intro s sched hs
  refine ⟨_, step_eq_applyReset hs, ?_⟩
  set t := State.applyReset { s with schedule := sched } with ht
  have hhave : t.rxHave = false := State.applyReset_rxHave _
  have hstatus : readPort .status t = .ok (.word 0) := by
    rw [readPort, ht, State.status_applyReset]
  have hlevel : readPort .txLevel t = .ok (.level 0) := by
    rw [readPort, ht, State.applyReset_txQ, List.length_nil]
  have hregs := readPort_lastRegister_absent hhave
  have hdata (i : Nat) : readPort (.lastData i) t = .error .lastAbsent := bufRead_absent i hhave
  exact ⟨rfl, rfl, rfl, rfl, rfl, rfl, rfl, hhave, rfl, rfl, rfl, rfl, rfl, hstatus, hlevel, hregs, hdata,
    rfl, rfl, rfl, rfl, rfl⟩

end Sys2Proof.Machine
end

section
/-! The decoder and the encoder undo each other (R85, R86, R92): format by format for the operation words, code by code
for the requests. -/

namespace Sys2Proof.Machine

theorem decodeZ_wordZ (i : Instr) (op : Byte) : decodeZ i (wordZ op) = .ok i :=
  if_pos (operandField_wordZ op)

theorem decodeB_wordB (f : Byte → Instr) (op b : Byte) : decodeB f (wordB op b) = .ok (f b) := by
  rw [decodeB, if_pos (reservedFieldB_wordB op b), byteField_wordB]

theorem decodeWord_txStart {w : OpWord} (h : opcodeField w = 0x10) :
    decodeWord w = .ok (.txStart (cmdField w) (argsField w) (lenField w)) := by
  rw [decodeWord, h]
  rfl

theorem decodeWord_txData {w : OpWord} (h : opcodeField w = 0x11) : decodeWord w = decodeB .txData w := by
  rw [decodeWord, h]
  rfl

theorem decodeWord_rxByte {w : OpWord} (h : opcodeField w = 0x20) : decodeWord w = decodeB .rxByte w := by
  rw [decodeWord, h]
  rfl

/-- Four bytes of a 32-bit total, highest first, join to it. -/
theorem joinWords_bytes (x : BitVec 32) :
    joinWords (joinBytes (x.extractLsb' 24 8) (x.extractLsb' 16 8)) (joinBytes (x.extractLsb' 8 8) (x.extractLsb' 0 8)) =
      x := by
  have := x.isLt
  apply BitVec.eq_of_toNat_eq
  simp only [joinWords_toNat, joinBytes_toNat, BitVec.extractLsb'_toNat, Nat.shiftRight_eq_div_pow]
  omega

theorem extractLsb'_joinWords (b3 b2 b1 b0 : Byte) :
    (joinWords (joinBytes b3 b2) (joinBytes b1 b0)).extractLsb' 24 8 = b3 ∧
    (joinWords (joinBytes b3 b2) (joinBytes b1 b0)).extractLsb' 16 8 = b2 ∧
    (joinWords (joinBytes b3 b2) (joinBytes b1 b0)).extractLsb' 8 8 = b1 ∧
    (joinWords (joinBytes b3 b2) (joinBytes b1 b0)).extractLsb' 0 8 = b0 := by
  have := b3.isLt; have := b2.isLt; have := b1.isLt; have := b0.isLt
  refine ⟨?_, ?_, ?_, ?_⟩ <;> apply BitVec.eq_of_toNat_eq <;>
    simp only [joinWords_toNat, joinBytes_toNat, BitVec.extractLsb'_toNat, Nat.shiftRight_eq_div_pow] <;> omega

/-- What well-formed instructions encode to decodes to them. -/
theorem decode_encode {i : Instr} (hwf : i.wf = true) : decode (encode i) = .ok i := by
  cases i with
  | nop => exact (decodeWord_nop (opcodeField_wordZ _)).trans (decodeZ_wordZ _ _)
  | crcInit => exact (decodeWord_crcInit (opcodeField_wordZ _)).trans (decodeZ_wordZ _ _)
  | crcByte b => exact (decodeWord_crcByte (opcodeField_wordB _ b)).trans (decodeB_wordB _ _ b)
  | txStart cmd args len => simp [decode, encode, decodeWord_txStart]
  | txData b => exact (decodeWord_txData (opcodeField_wordB _ b)).trans (decodeB_wordB _ _ b)
  | txAbort => exact (decodeWord_txAbort (opcodeField_wordZ _)).trans (decodeZ_wordZ _ _)
  | rxByte b => exact (decodeWord_rxByte (opcodeField_wordB _ b)).trans (decodeB_wordB _ _ b)
  | rxAbort => exact (decodeWord_rxAbort (opcodeField_wordZ _)).trans (decodeZ_wordZ _ _)
  | rxAck => exact (decodeWord_rxAck (opcodeField_wordZ _)).trans (decodeZ_wordZ _ _)
  | errClr => exact (decodeWord_errClr (opcodeField_wordZ _)).trans (decodeZ_wordZ _ _)
  | cmdCheckModelType model => exact if_pos hwf
  | cmdUpdate seq chunk => exact congrArg (fun x => Except.ok (Instr.cmdUpdate x chunk)) (joinBytes_hiByte_loByte seq)
  | cmdUpdateDataPackages total =>
    exact congrArg (fun x => Except.ok (Instr.cmdUpdateDataPackages x)) (joinWords_bytes total)
  | cmdHandshake => rfl
  | cmdIntoBoot => rfl
  | cmdUpdateEnd => rfl

/-- Settles O2: each format's fields are read back from its word, and each request's operands from its bytes. -/
theorem decodeOfEncodeIsTheInstruction : Obligations.DecodeOfEncodeIsTheInstruction :=
  fun _ => decode_encode

/-- A word that format `Z` decodes at opcode `n` is the encoding of the instruction of that opcode. -/
theorem encode_of_decodeZ {i j : Instr} {w : OpWord} {n : Nat} (hop : (opcodeField w).toNat = n)
    (hwf : i.wf = true) (he : encode i = .word (wordZ (BitVec.ofNat 8 n))) (h : decodeZ i w = .ok j) :
    j.wf = true ∧ encode j = .word w := by
  obtain ⟨hzero, rfl⟩ := decodeZ_ok h
  exact ⟨hwf, by rw [he, wordZ_of_fields hop hzero]⟩

/-- The same for format `B`. -/
theorem encode_of_decodeB {f : Byte → Instr} {j : Instr} {w : OpWord} {n : Nat} (hop : (opcodeField w).toNat = n)
    (hwf : ∀ b, (f b).wf = true) (he : ∀ b, encode (f b) = .word (wordB (BitVec.ofNat 8 n) b)) (h : decodeB f w = .ok j) :
    j.wf = true ∧ encode j = .word w := by
  obtain ⟨hzero, rfl⟩ := decodeB_ok h
  exact ⟨hwf _, by rw [he, wordB_of_fields hop hzero]⟩

theorem encode_of_decodeWord {w : OpWord} {i : Instr} (h : decodeWord w = .ok i) : i.wf = true ∧ encode i = .word w := by
  unfold decodeWord at h
  split at h
  next hop => exact encode_of_decodeZ hop rfl rfl h
  next hop => exact encode_of_decodeZ hop rfl rfl h
  next hop => exact encode_of_decodeB hop (fun _ => rfl) (fun _ => rfl) h
  next hop =>
    cases h
    exact ⟨rfl, congrArg HostItem.word (wordS_of_fields hop)⟩
  next hop => exact encode_of_decodeB hop (fun _ => rfl) (fun _ => rfl) h
  next hop => exact encode_of_decodeZ hop rfl rfl h
  next hop => exact encode_of_decodeB hop (fun _ => rfl) (fun _ => rfl) h
  next hop => exact encode_of_decodeZ hop rfl rfl h
  next hop => exact encode_of_decodeZ hop rfl rfl h
  next hop => exact encode_of_decodeZ hop rfl rfl h
  next => cases h

/-- What `CMD_UPDATE`'s operand bytes are. -/
theorem decodeUpdate_ok {c : Byte} {operands : List Byte} {i : Instr} (h : decodeUpdate c operands = .ok i) :
    ∃ h l chunk, operands = h :: l :: chunk ∧ i = .cmdUpdate (joinBytes h l) chunk := by
  unfold decodeUpdate at h
  split at h
  · cases h; exact ⟨_, _, _, rfl, rfl⟩
  · cases h

/-- What `CMD_UPDATE_DATA_PACKAGES`'s operand bytes are. -/
theorem decodePackages_ok {c : Byte} {operands : List Byte} {i : Instr} (h : decodePackages c operands = .ok i) :
    ∃ b3 b2 b1 b0, operands = [b3, b2, b1, b0] ∧
      i = .cmdUpdateDataPackages (joinWords (joinBytes b3 b2) (joinBytes b1 b0)) := by
  unfold decodePackages at h
  split at h
  · cases h; exact ⟨_, _, _, _, rfl, rfl⟩
  · cases h

/-- What a request without operand bytes accepts. -/
theorem decodeBare_ok {c : Byte} {operands : List Byte} {i j : Instr} (h : decodeBare i c operands = .ok j) :
    operands = [] ∧ i = j := by
  unfold decodeBare at h
  split at h
  · cases h; exact ⟨rfl, rfl⟩
  · cases h

/-- A request without operand bytes that decodes at code `n` is the encoding of the command of that code. -/
theorem encode_of_decodeBare {c : Byte} {operands : List Byte} {i j : Instr} {n : Nat} (hn : c.toNat = n)
    (hwf : i.wf = true) (he : encode i = .request (BitVec.ofNat 8 n) []) (h : decodeBare i c operands = .ok j) :
    j.wf = true ∧ encode j = .request c operands := by
  obtain ⟨rfl, rfl⟩ := decodeBare_ok h
  exact ⟨hwf, by rw [he, ← hn, BitVec.ofNat_toNat, BitVec.setWidth_eq]⟩

theorem encode_of_decodeRequest {code : Byte} {operands : List Byte} {i : Instr}
    (h : decodeRequest code operands = .ok i) : i.wf = true ∧ encode i = .request code operands := by
  have hcode {n : Nat} (hn : code.toNat = n) : BitVec.ofNat 8 n = code := by
    rw [← hn, BitVec.ofNat_toNat, BitVec.setWidth_eq]
  unfold decodeRequest at h
  split at h
  next hn =>
    obtain ⟨hwf, rfl⟩ := checkRequest_ok h
    exact ⟨hwf, by rw [← hcode hn]; rfl⟩
  next hn =>
    obtain ⟨b1, b0, chunk, rfl, rfl⟩ := decodeUpdate_ok h
    rw [encode, hiByte_joinBytes, loByte_joinBytes, ← hcode hn]
    exact ⟨rfl, rfl⟩
  next hn =>
    obtain ⟨b3, b2, b1, b0, rfl, rfl⟩ := decodePackages_ok h
    obtain ⟨h3, h2, h1, h0⟩ := extractLsb'_joinWords b3 b2 b1 b0
    rw [encode, h3, h2, h1, h0, ← hcode hn]
    exact ⟨rfl, rfl⟩
  next hn => exact encode_of_decodeBare hn rfl rfl h
  next hn => exact encode_of_decodeBare hn rfl rfl h
  next hn => exact encode_of_decodeBare hn rfl rfl h
  next => cases h

/-- Settles O3: a word is its opcode and its fields, a request its code and its operands. -/
theorem encodeOfDecodeIsTheForm : Obligations.EncodeOfDecodeIsTheForm := by
  intro x i h
  cases x with
  | word w => exact encode_of_decodeWord h
  | request code operands => exact encode_of_decodeRequest h

/-- A word as its encoded number decodes as the encoding does. -/
theorem decodeWord_ofNat {i : Instr} {w : OpWord} {n : Nat} (hwf : i.wf = true) (he : encode i = .word w)
    (hn : w.toNat = n) : decodeWord (BitVec.ofNat 48 n) = .ok i := by
  rw [← hn, BitVec.ofNat_toNat, BitVec.setWidth_eq]
  exact (congrArg decode he).symm.trans (decode_encode hwf)

/-- Settles O1: each number is that of an encoded instruction. -/
theorem operationWordsDecodeAsTabled : Obligations.OperationWordsDecodeAsTabled := by
  refine ⟨decode_encode (i := .nop) rfl, decode_encode (i := .crcInit) rfl,
    fun b => decodeWord_ofNat rfl rfl (wordB_toNat 0x02 b), fun cmd args len => ?txStart,
    fun b => decodeWord_ofNat rfl rfl (wordB_toNat 0x11 b), decode_encode (i := .txAbort) rfl,
    fun b => decodeWord_ofNat rfl rfl (wordB_toNat 0x20 b), decode_encode (i := .rxAbort) rfl,
    decode_encode (i := .rxAck) rfl, decode_encode (i := .errClr) rfl⟩
  case txStart => exact decodeWord_ofNat rfl rfl (wordS_toNat 0x10 cmd args len)

/-- The operand field is 0 exactly when its number is. -/
theorem operandField_eq_zero_iff (w : OpWord) : operandField w = 0 ↔ w.toNat % 2 ^ 40 = 0 := by
  rw [← BitVec.toNat_inj, operandField_toNat]
  rfl

theorem reservedFieldB_eq_zero_iff (w : OpWord) : reservedFieldB w = 0 ↔ w.toNat % 2 ^ 40 / 2 ^ 8 = 0 := by
  rw [← BitVec.toNat_inj, reservedFieldB_toNat]
  show w.toNat / 2 ^ 8 % 2 ^ 32 = 0 ↔ _
  omega

/-- An opcode field is one of those listed when its number is. -/
theorem opcodeField_mem {w : OpWord} {l : List Nat} (h : w.toNat / 2 ^ 40 ∈ l) :
    opcodeField w ∈ l.map (BitVec.ofNat 8) :=
  List.mem_map.2 ⟨_, h, by rw [← opcodeField_toNat, BitVec.ofNat_toNat, BitVec.setWidth_eq]⟩

/-- Settles O4: the field's number decides the arm of the opcode map, and the arm's format the reserved bits. -/
theorem everyWordIsDefinedOrReserved : Obligations.EveryWordIsDefinedOrReserved := by
  intro w op operand
  refine ⟨fun h => decodeWord_reservedOpcode fun hmem => ?reserved, fun h => ?formatZ, fun h => ?formatB, fun h => ?formatS⟩
  case reserved =>
    have hnum := List.mem_map_of_mem (f := BitVec.toNat) hmem
    rw [opcodeField_toNat] at hnum
    simp only [List.map_cons, List.map_nil, BitVec.toNat_ofNat, List.mem_cons, List.not_mem_nil, or_false] at hnum
    simp only [op] at h
    omega
  case formatZ =>
    obtain ⟨i, hi⟩ := decodeWord_formatZ (opcodeField_mem h)
    rw [hi, decodeZ]
    simp only [operandField_eq_zero_iff, operand]
    split
    · exact ⟨i, rfl⟩
    · rfl
  case formatB =>
    obtain ⟨f, hf⟩ := decodeWord_formatB (opcodeField_mem h)
    rw [hf, decodeB]
    simp only [reservedFieldB_eq_zero_iff, operand]
    split
    · exact ⟨_, rfl⟩
    · rfl
  case formatS => exact ⟨_, decodeWord_txStart (opcodeField_eq_ofNat ((opcodeField_toNat w).trans h))⟩

end Sys2Proof.Machine
end

section
/-! What an instruction can do, said once (`exec_cases`), and what a received byte leaves unchanged. -/

namespace Sys2Proof.Machine

/-- A wire command's request answers the words of one packet on the host port; only a count that no two bytes hold draws. -/
theorem exec_command {i : Instr} {s t : State} (hi : i.isCommand = true) (h : exec i s = .next t) :
    ∃ cmd args data draws, t = { s with
      hostPort := (sendInstrs cmd args data).map encode ++ s.hostPort, draws := draws } := by
  cases i with
  | cmdCheckModelType model => cases h; exact ⟨_, _, _, _, rfl⟩
  | cmdUpdate seq chunk => cases h; exact ⟨_, _, _, _, rfl⟩
  | cmdUpdateDataPackages total => cases h; exact ⟨_, _, _, _, rfl⟩
  | cmdHandshake => cases h; exact ⟨_, _, _, _, rfl⟩
  | cmdIntoBoot => cases h; exact ⟨_, _, _, _, rfl⟩
  | cmdUpdateEnd => cases h; exact ⟨_, _, _, _, rfl⟩
  | _ => cases hi

/-- The ways an instruction answers a next state: `s` before it, the last argument after. -/
inductive ExecCase (s : State) : Instr → State → Prop where
  | nop : ExecCase s .nop s
  | crcInit : ExecCase s .crcInit { s with crc := 0 }
  | crcByte (b : Byte) : ExecCase s (.crcByte b) { s with crc := crcStep s.crc b }
  | startBusy (cmd : Byte) (args len : U16) (hx : s.txState = .data) :
    ExecCase s (.txStart cmd args len) (s.raise .txBusy)
  | start (cmd : Byte) (args len : U16) (hx : s.txState = .idle) :
    ExecCase s (.txStart cmd args len) (txStartOrHold cmd args len s)
  | dataIdle (b : Byte) (hx : s.txState = .idle) : ExecCase s (.txData b) (s.raise .txIdle)
  | data (b : Byte) (hx : s.txState = .data) : ExecCase s (.txData b) (txDataOrHold b s)
  | txAbort : ExecCase s .txAbort { s with txState := .idle, txRem := 0, txQ := [] }
  | rxByte (b : Byte) : ExecCase s (.rxByte b) (rxDeliver b s)
  | rxAbort : ExecCase s .rxAbort { s with rxState := .hunt, rxIdx := 0 }
  | rxAck : ExecCase s .rxAck { s with rxDone := false, rxOvr := false }
  | errClr : ExecCase s .errClr { s with errCode := 0 }
  | command (i : Instr) (cmd : Byte) (args : U16) (data : List Byte) (draws : Nat) (hi : i.isCommand = true) :
    ExecCase s i { s with hostPort := (sendInstrs cmd args data).map encode ++ s.hostPort, draws := draws }

theorem exec_cases {i : Instr} {s t : State} (h : exec i s = .next t) : ExecCase s i t := by
  by_cases hi : i.isCommand = true
  · obtain ⟨cmd, args, data, draws, rfl⟩ := exec_command hi h
    exact .command i cmd args data draws hi
  cases i with
  | nop => cases h; exact .nop
  | crcInit => cases h; exact .crcInit
  | crcByte b => cases h; exact .crcByte b
  | txStart cmd args len =>
    cases hx : s.txState with
    | data => cases (exec_txStart_of_data cmd args len hx).symm.trans h; exact .startBusy cmd args len hx
    | idle => cases (exec_txStart_of_idle cmd args len hx).symm.trans h; exact .start cmd args len hx
  | txData b =>
    cases hx : s.txState with
    | idle => cases (exec_txData_of_idle b hx).symm.trans h; exact .dataIdle b hx
    | data => cases (exec_txData_of_data b hx).symm.trans h; exact .data b hx
  | txAbort => cases h; exact .txAbort
  | rxByte b => cases h; exact .rxByte b
  | rxAbort => cases h; exact .rxAbort
  | rxAck => cases h; exact .rxAck
  | errClr => cases h; exact .errClr
  | _ => exact absurd rfl hi

/-- A received byte writes the deserializer's registers only, and not `crc` (R155). -/
theorem rxDeliver_frame (b : Byte) (s : State) : (rxDeliver b s).withRxOf s = s ∧ (rxDeliver b s).crc = s.crc := by
  obtain ⟨-, -, h⟩ | ⟨-, -, h⟩ | ⟨-, -, h⟩ | ⟨-, -, h⟩ | ⟨-, -, h⟩ | ⟨-, -, h⟩ | ⟨-, -, h⟩ | ⟨-, -, h⟩ :=
    rxDeliver_cases b s <;> rw [h] <;> exact ⟨rfl, rfl⟩

theorem rxDeliver_withRxOf (b : Byte) (s : State) : (rxDeliver b s).withRxOf s = s := (rxDeliver_frame b s).1

@[simp] theorem rxDeliver_crc (b : Byte) (s : State) : (rxDeliver b s).crc = s.crc := (rxDeliver_frame b s).2
@[simp] theorem rxDeliver_cfg (b : Byte) (s : State) : (rxDeliver b s).cfg = s.cfg :=
  (congrArg State.cfg (rxDeliver_withRxOf b s) :)
@[simp] theorem rxDeliver_txState (b : Byte) (s : State) : (rxDeliver b s).txState = s.txState :=
  (congrArg State.txState (rxDeliver_withRxOf b s) :)
@[simp] theorem rxDeliver_txRem (b : Byte) (s : State) : (rxDeliver b s).txRem = s.txRem :=
  (congrArg State.txRem (rxDeliver_withRxOf b s) :)
@[simp] theorem rxDeliver_txCrc (b : Byte) (s : State) : (rxDeliver b s).txCrc = s.txCrc :=
  (congrArg State.txCrc (rxDeliver_withRxOf b s) :)
@[simp] theorem rxDeliver_txQ (b : Byte) (s : State) : (rxDeliver b s).txQ = s.txQ :=
  (congrArg State.txQ (rxDeliver_withRxOf b s) :)
@[simp] theorem rxDeliver_txWire (b : Byte) (s : State) : (rxDeliver b s).txWire = s.txWire :=
  (congrArg State.txWire (rxDeliver_withRxOf b s) :)
@[simp] theorem rxDeliver_errCode (b : Byte) (s : State) : (rxDeliver b s).errCode = s.errCode :=
  (congrArg State.errCode (rxDeliver_withRxOf b s) :)
@[simp] theorem rxDeliver_held (b : Byte) (s : State) : (rxDeliver b s).held = s.held :=
  (congrArg State.held (rxDeliver_withRxOf b s) :)
@[simp] theorem rxDeliver_hostPort (b : Byte) (s : State) : (rxDeliver b s).hostPort = s.hostPort :=
  (congrArg State.hostPort (rxDeliver_withRxOf b s) :)
@[simp] theorem rxDeliver_schedule (b : Byte) (s : State) : (rxDeliver b s).schedule = s.schedule :=
  (congrArg State.schedule (rxDeliver_withRxOf b s) :)
@[simp] theorem rxDeliver_draws (b : Byte) (s : State) : (rxDeliver b s).draws = s.draws :=
  (congrArg State.draws (rxDeliver_withRxOf b s) :)

theorem resumeHeld_txStart (cmd : Byte) (args len : U16) (s : State) :
    resumeHeld (.txStart cmd args len) s = txStartOrHold cmd args len { s with held := none } := rfl

theorem resumeHeld_txData (b : Byte) (s : State) :
    resumeHeld (.txData b) s = txDataOrHold b { s with held := none } := rfl

end Sys2Proof.Machine
end

section
/-! The invariant, kept by each of the operations a step is made of, and so by every step. -/

namespace Sys2Proof.Machine

/-- The agents' pending inputs and the draw counter are in no clause. -/
theorem Inv.with_inputs {s : State} (h : Inv s) (sched : List Turn) (port : List HostItem) (line : List Byte)
    (draws : Nat) : Inv { s with schedule := sched, hostPort := port, lineIn := line, draws := draws } :=
  { h with }

theorem Inv.with_crc {s : State} (h : Inv s) (c : U16) : Inv { s with crc := c } := { h with }

/-- A freed port has no held operation to speak of. -/
theorem Inv.free_port {s : State} (h : Inv s) : Inv { s with held := none } :=
  { h with held_start := nofun, held_data := nofun }

theorem Inv.raise {s : State} (h : Inv s) (e : OpError) : Inv (s.raise e) := by
  have hcode : (if s.errCode = 0 then e.code else s.errCode).toNat ≤ 4 := by
    split
    · exact e.code_le
    · exact h.err_range
  rw [raise_eq]
  exact { h with err_range := hcode }

theorem Inv.clearError {s : State} (h : Inv s) : Inv { s with errCode := 0 } :=
  { h with err_range := Nat.zero_le _ }

theorem Inv.txShift {s : State} (h : Inv s) : Inv s.txShift := by
  have hlen : s.txQ.tail.length ≤ s.cfg.txqCap := by
    rw [List.length_tail]
    exact (Nat.sub_le _ _).trans h.tx_level
  rw [txShift_eq]
  exact { h with tx_level := hlen }

theorem Inv.applyReset {s : State} (h : Inv s) : Inv s.applyReset where
  cfg_wf := h.cfg_wf
  tx_rem := ⟨fun _ => rfl, fun _ => rfl⟩
  tx_level := Nat.zero_le _
  hunt_idx _ := rfl
  fixed_idx := nofun
  body_idx := nofun
  buf_cap := List.length_take_le ..
  fixed_buf := nofun
  body_buf := nofun
  have_last := rfl
  done_have := nofun
  ovr_done := nofun
  last_ok := nofun
  err_range := Nat.zero_le _
  held_start := nofun
  held_data := nofun

/-- `TX_START` after its check, on a free port: it holds as what passed, or opens or completes a frame. -/
theorem Inv.txStartOrHold {s : State} (h : Inv s) (cmd : Byte) (args len : U16) (hidle : s.txState = .idle)
    (hfree : s.held = none) : Inv (txStartOrHold cmd args len s) := by
  obtain ⟨-, heq⟩ | ⟨-, hroom, heq⟩ | ⟨hlen, hroom, heq⟩ := txStartOrHold_cases cmd args len s <;> rw [heq]
  · exact { h with held_start := fun _ _ _ _ => hidle, held_data := nofun }
  · exact { h with
      tx_rem := ⟨fun _ => rfl, fun _ => rfl⟩
      tx_level := by simpa [fixedFields, frameTail] using hroom
      held_start := fun _ _ _ _ => rfl
      held_data := by simp [hfree] }
  · exact { h with
      tx_rem := ⟨nofun, fun h0 => absurd h0 hlen⟩
      tx_level := by simpa [fixedFields] using hroom
      held_start := by simp [hfree]
      held_data := fun _ _ => rfl }

/-- `TX_DATA` after its check, on a free port: only the last byte brings `tx_rem` to 0, and closes the frame. -/
theorem Inv.txDataOrHold {s : State} (h : Inv s) (b : Byte) (hdata : s.txState = .data) (hfree : s.held = none) :
    Inv (txDataOrHold b s) := by
  obtain ⟨-, heq⟩ | ⟨-, hroom, heq⟩ | ⟨hrem, hroom, heq⟩ := txDataOrHold_cases b s <;> rw [heq]
  · exact { h with held_start := nofun, held_data := fun _ _ => hdata }
  · exact { h with
      tx_rem := ⟨fun _ => rfl, fun _ => rfl⟩
      tx_level := by simpa [frameTail] using hroom
      held_start := fun _ _ _ _ => rfl
      held_data := by simp [hfree] }
  · have hpos : s.txRem - 1 ≠ 0 := fun h0 => hrem (by bv_omega)
    exact { h with
      tx_rem := ⟨fun h0 => absurd (hdata.symm.trans h0) nofun, fun h0 => absurd h0 hpos⟩
      tx_level := by simpa using hroom
      held_start := by simp [hfree] }

/-- A held operation passed its check, so resuming it is performing it on a freed port. -/
theorem Inv.resumeHeld {s : State} {op : HeldOp} (h : Inv s) (hh : s.held = some op) : Inv (resumeHeld op s) := by
  cases op with
  | txStart cmd args len => exact h.free_port.txStartOrHold cmd args len (h.held_start cmd args len hh) rfl
  | txData b => exact h.free_port.txDataOrHold b (h.held_data b hh) rfl

theorem Inv.txAbort {s : State} (h : Inv s) (hfree : s.held = none) :
    Inv { s with txState := .idle, txRem := 0, txQ := [] } :=
  { h with
    tx_rem := ⟨fun _ => rfl, fun _ => rfl⟩
    tx_level := Nat.zero_le _
    held_start := fun _ _ _ _ => rfl
    held_data := by simp [hfree] }

theorem Inv.rxAbort {s : State} (h : Inv s) : Inv { s with rxState := .hunt, rxIdx := 0 } :=
  { h with hunt_idx := fun _ => rfl, fixed_idx := nofun, body_idx := nofun, fixed_buf := nofun, body_buf := nofun }

theorem Inv.rxAck {s : State} (h : Inv s) : Inv { s with rxDone := false, rxOvr := false } :=
  { h with done_have := nofun, ovr_done := nofun }

/-- What completion latches agrees with itself (R42, R160). -/
theorem Inv.completedPacket_consistent {s : State} (h : Inv s) (t : Byte) (hbody : s.rxState = .body)
    (hle : s.rxLen.toNat ≤ s.rxIdx.toNat) : (completedPacket t s).Consistent s.cfg where
  verify_eq := rfl
  trlOk_eq := rfl
  trunc_eq := rfl
  data_length := rxBuf_length_of_rxLen_le h hbody hle

/-- The index moves on by one below its 17 bits' end. -/
theorem rxIdx_add_one_toNat {i : BitVec 17} (h : i.toNat ≤ 65537) : (i + 1).toNat = i.toNat + 1 := by
  simp only [add_one_eq_ofNat_toNat, BitVec.toNat_ofNat]
  omega

/-- A header in `HUNT` starts a frame with no data yet (R156). -/
theorem Inv.rxHunt {s : State} (h : Inv s) (b : Byte) : Inv (rxHunt b s) := by
  rw [rxHunt.eq_def]
  split
  · exact { h with
      hunt_idx := nofun, fixed_idx := fun _ => Nat.zero_le _, body_idx := nofun
      buf_cap := Nat.zero_le _, fixed_buf := fun _ => rfl, body_buf := nofun }
  · exact h

/-- A fixed-field byte moves the index on, and the fifth opens the body with no data yet (R157). -/
theorem Inv.rxFixed {s : State} (h : Inv s) (b : Byte) (hs : s.rxState = .fixed) : Inv (rxFixed b s) := by
  by_cases h4 : s.rxIdx = 4
  case pos =>
    rw [rxFixed_of_eq_four b h4]
    exact { h with
      hunt_idx := nofun, fixed_idx := nofun, body_idx := fun _ => Nat.zero_le _, fixed_buf := nofun
      body_buf := fun _ => by simp [h.fixed_buf hs] }
  case neg =>
    have hle := h.fixed_idx hs
    have hidx : (s.rxIdx + 1).toNat ≤ 4 := by
      have hne : s.rxIdx.toNat ≠ 4 := fun h0 => h4 (BitVec.eq_of_toNat_eq h0)
      rw [rxIdx_add_one_toNat (by omega)]
      omega
    rw [rxFixed_of_ne_four b rfl h4]
    exact { h with
      hunt_idx := by simp [hs], fixed_idx := fun _ => hidx, body_idx := by simp [hs], body_buf := by simp [hs] }

/-- A data byte is stored while there is capacity, so the buffer keeps step with the index (R158). -/
theorem Inv.rxData {s : State} (h : Inv s) (b : Byte) (hs : s.rxState = .body) (hlt : s.rxIdx.toNat < s.rxLen.toNat) :
    Inv (rxData b s) := by
  have hlen := s.rxLen.isLt
  have hbuf : s.rxBuf.length = min s.rxIdx.toNat s.cfg.dataCap := by
    rw [h.body_buf hs, Nat.min_eq_left hlt.le]
  have hnext : (if s.rxIdx.toNat < s.cfg.dataCap then s.rxBuf ++ [b] else s.rxBuf).length =
      min (s.rxIdx.toNat + 1) s.cfg.dataCap := by
    split
    · rw [List.length_append, List.length_singleton]; omega
    · omega
  have hidx := rxIdx_add_one_toNat (i := s.rxIdx) (by omega)
  have hrange : (s.rxIdx + 1).toNat ≤ s.rxLen.toNat + 2 := by omega
  exact { h with
    hunt_idx := by simp [rxData.eq_def, hs]
    fixed_idx := by simp [rxData.eq_def, hs]
    body_idx := fun _ => hrange
    buf_cap := hnext ▸ Nat.min_le_right _ _
    fixed_buf := by simp [rxData.eq_def, hs]
    body_buf := fun _ => by simpa only [rxData.eq_def, hidx, Nat.min_eq_left (Nat.succ_le_of_lt hlt)] using hnext }

/-- A CRC byte moves the index on past the data (R159). -/
theorem Inv.crc_byte {s : State} (h : Inv s) (rcrc : U16) (hs : s.rxState = .body)
    (hle : s.rxLen.toNat ≤ s.rxIdx.toNat) (hlt : s.rxIdx.toNat ≤ s.rxLen.toNat + 1) :
    Inv { s with rxRcrc := rcrc, rxIdx := s.rxIdx + 1 } := by
  have hlen := s.rxLen.isLt
  have hidx := rxIdx_add_one_toNat (i := s.rxIdx) (by omega)
  have hrange : (s.rxIdx + 1).toNat ≤ s.rxLen.toNat + 2 := by omega
  exact { h with
    hunt_idx := by simp [hs]
    fixed_idx := by simp [hs]
    body_idx := fun _ => hrange
    body_buf := fun _ => by
      rw [rxBuf_length_of_rxLen_le h hs hle, hidx, Nat.min_eq_right (by omega : s.rxLen.toNat ≤ _)] }

/-- Completion latches a packet that agrees with itself, and is back in `HUNT` (R160). -/
theorem Inv.rxComplete {s : State} (h : Inv s) (b : Byte) (hs : s.rxState = .body)
    (hle : s.rxLen.toNat ≤ s.rxIdx.toNat) : Inv (rxComplete b s) :=
  { h with
    hunt_idx := fun _ => rfl, fixed_idx := nofun, body_idx := nofun, fixed_buf := nofun, body_buf := nofun
    have_last := rfl
    done_have := fun _ => rfl
    ovr_done := fun _ => rfl
    last_ok := fun _ hlast => Option.some.inj hlast ▸ h.completedPacket_consistent b hs hle }

/-- A byte past the data. -/
theorem Inv.rxTail {s : State} (h : Inv s) (b : Byte) (hs : s.rxState = .body) (hle : s.rxLen.toNat ≤ s.rxIdx.toNat) :
    Inv (rxTail b s) := by
  have hend := h.body_idx hs
  obtain h0 | h1 | h2 : s.rxIdx.toNat = s.rxLen.toNat ∨ s.rxIdx.toNat = s.rxLen.toNat + 1 ∨
    s.rxIdx.toNat = s.rxLen.toNat + 2 := by omega
  · rw [rxTail_of_eq_rxLen b h0]
    exact h.crc_byte _ hs hle (by omega)
  · rw [rxTail_of_eq_rxLen_add_one b h1]
    exact h.crc_byte _ hs hle (by omega)
  · rw [rxTail_of_eq_rxLen_add_two b h2]
    exact h.rxComplete b hs hle

/-- A received byte, in each of the three states of R154. -/
theorem Inv.rxDeliver {s : State} (h : Inv s) (b : Byte) : Inv (rxDeliver b s) := by
  cases hs : s.rxState with
  | hunt => exact rxDeliver_of_hunt b hs ▸ h.rxHunt b
  | fixed => exact rxDeliver_of_fixed b hs ▸ h.rxFixed b hs
  | body =>
    obtain hlt | hle := Nat.lt_or_ge s.rxIdx.toNat s.rxLen.toNat
    · exact rxDeliver_of_lt_rxLen b hs hlt ▸ h.rxData b hs hlt
    · exact rxDeliver_of_rxLen_le b hs hle ▸ h.rxTail b hs hle

/-- An instruction the free port takes keeps the invariant. -/
theorem Inv.exec {i : Instr} {s t : State} (h : Inv s) (hfree : s.held = none) (ht : exec i s = .next t) : Inv t := by
  cases exec_cases ht with
  | nop => exact h
  | crcInit => exact h.with_crc _
  | crcByte b => exact h.with_crc _
  | startBusy => exact h.raise _
  | start cmd args len hx => exact h.txStartOrHold cmd args len hx hfree
  | dataIdle => exact h.raise _
  | data b hx => exact h.txDataOrHold b hx hfree
  | txAbort => exact h.txAbort hfree
  | rxByte b => exact h.rxDeliver b
  | rxAbort => exact h.rxAbort
  | rxAck => exact h.rxAck
  | errClr => exact h.clearError
  | command => exact h.with_inputs _ _ _ _

/-- Settles O11: consuming the agents' inputs touches no clause, and each operation keeps them all. -/
theorem stepKeepsTheInvariant : Obligations.StepKeepsTheInvariant := by
  intro s t h hstep
  have hin (sched : List Turn) (port : List HostItem) (line : List Byte) :
      Inv { s with schedule := sched, hostPort := port, lineIn := line } := h.with_inputs sched port line s.draws
  cases step_cases hstep with
  | idle _ ht => exact ht ▸ h
  | shift sched _ ht => exact ht ▸ (hin sched _ _).txShift
  | reset sched _ ht => exact ht ▸ (hin sched _ _).applyReset
  | noByte sched _ _ ht => exact ht ▸ hin sched _ _
  | byte sched b rest _ _ ht => exact ht ▸ (hin sched _ rest).rxDeliver b
  | resume sched op _ hh ht => exact ht ▸ (hin sched _ _).resumeHeld hh
  | noForm sched _ _ _ ht => exact ht ▸ hin sched _ _
  | run sched _ rest _ _ hh _ _ ht => exact (hin sched rest _).exec hh ht
  | reservedOpcode sched _ rest _ _ _ _ ht => exact ht ▸ (hin sched rest _).raise _
  | reservedBits sched _ rest _ _ _ _ ht => exact ht ▸ (hin sched rest _).raise _

/-- Settles O10: at reset no frame is open on either side and nothing has been received. -/
theorem invariantHoldsAtReset : Obligations.InvariantHoldsAtReset where
  cfg_wf := by decide
  tx_rem := ⟨fun _ => rfl, fun _ => rfl⟩
  tx_level := Nat.zero_le _
  hunt_idx _ := rfl
  fixed_idx := nofun
  body_idx := nofun
  buf_cap := Nat.zero_le _
  fixed_buf := nofun
  body_buf := nofun
  have_last := rfl
  done_have := nofun
  ovr_done := nofun
  last_ok := nofun
  err_range := Nat.zero_le _
  held_start := nofun
  held_data := nofun

/-- Settles O14: the values are those the definition writes. -/
theorem resetStateHasTheResetValues : Obligations.ResetStateHasTheResetValues :=
  ⟨rfl, rfl, rfl, rfl, rfl, rfl, rfl, rfl, rfl, rfl, rfl, rfl, rfl, rfl, rfl⟩

end Sys2Proof.Machine
end

section
/-! The step forwards, one equation per turn, and the serializer's operations by the room they find. -/

namespace Sys2Proof.Machine

theorem step_of_schedule_nil {s : State} (hs : s.schedule = []) : step s = .next s := by
  simp only [step, hs]

theorem step_eq_txShift {s : State} {sched : List Turn} (hs : s.schedule = .lineOut :: sched) :
    step s = .next (State.txShift { s with schedule := sched }) := by
  simp only [step, hs, takeTurn]

theorem step_of_lineIn_nil {s : State} {sched : List Turn} (hs : s.schedule = .lineIn :: sched) (hl : s.lineIn = []) :
    step s = .next { s with schedule := sched } := by
  simp only [step, hs, takeTurn, lineInStep, hl]

theorem step_eq_exec_rxByte {s : State} {sched : List Turn} {b : Byte} {rest : List Byte}
    (hs : s.schedule = .lineIn :: sched) (hl : s.lineIn = b :: rest) :
    step s = exec (.rxByte b) { s with schedule := sched, lineIn := rest } := by
  simp only [step, hs, takeTurn, lineInStep, hl]

theorem step_eq_resumeHeld {s : State} {sched : List Turn} {op : HeldOp} (hs : s.schedule = .host :: sched)
    (hh : s.held = some op) : step s = .next (resumeHeld op { s with schedule := sched }) := by
  simp only [step, hs, takeTurn, hostStep, hh]

theorem step_of_hostPort_nil {s : State} {sched : List Turn} (hs : s.schedule = .host :: sched) (hh : s.held = none)
    (hp : s.hostPort = []) : step s = .next { s with schedule := sched } := by
  simp only [step, hs, takeTurn, hostStep, hh, hp]

theorem step_eq_exec {s : State} {sched : List Turn} {item : HostItem} {rest : List HostItem} {i : Instr}
    (hs : s.schedule = .host :: sched) (hh : s.held = none) (hp : s.hostPort = item :: rest) (hd : decode item = .ok i) :
    step s = exec i { s with schedule := sched, hostPort := rest } := by
  rw [step_eq_acceptItem hs hh hp, acceptItem_of_decode_ok _ hd]

theorem step_eq_reject {s : State} {sched : List Turn} {item : HostItem} {rest : List HostItem} {r : Reject}
    (hs : s.schedule = .host :: sched) (hh : s.held = none) (hp : s.hostPort = item :: rest)
    (hd : decode item = .error r) : step s = rejectItem r { s with schedule := sched, hostPort := rest } := by
  rw [step_eq_acceptItem hs hh hp, acceptItem_of_decode_error _ hd]

theorem txStartOrHold_of_full {cmd : Byte} {args len : U16} {s : State}
    (h : s.cfg.txqCap < s.txQ.length + (if len = 0 then 9 else 6)) :
    txStartOrHold cmd args len s = { s with held := some (.txStart cmd args len) } := by
  obtain ⟨-, heq⟩ | ⟨hlen, hroom, -⟩ | ⟨hlen, hroom, -⟩ := txStartOrHold_cases cmd args len s
  · exact heq
  · rw [if_pos hlen] at h; omega
  · rw [if_neg hlen] at h; omega

theorem txStartOrHold_of_empty {cmd : Byte} {args len : U16} {s : State} (hlen : len = 0)
    (hroom : s.txQ.length + 9 ≤ s.cfg.txqCap) :
    txStartOrHold cmd args len s = { s with
      txCrc := crc16 (fixedFields cmd args 0)
      txQ := s.txQ ++ (Config.header :: fixedFields cmd args 0 ++ frameTail (crc16 (fixedFields cmd args 0)))
      txState := .idle
      txRem := 0 } := by
  obtain ⟨hfull, -⟩ | ⟨-, -, heq⟩ | ⟨hne, -⟩ := txStartOrHold_cases cmd args len s
  · rw [if_pos hlen] at hfull; omega
  · exact heq
  · exact absurd hlen hne

theorem txStartOrHold_of_length {cmd : Byte} {args len : U16} {s : State} (hlen : len ≠ 0)
    (hroom : s.txQ.length + 6 ≤ s.cfg.txqCap) :
    txStartOrHold cmd args len s = { s with
      txCrc := crc16 (fixedFields cmd args len)
      txQ := s.txQ ++ (Config.header :: fixedFields cmd args len)
      txState := .data
      txRem := len } := by
  obtain ⟨hfull, -⟩ | ⟨hz, -⟩ | ⟨-, -, heq⟩ := txStartOrHold_cases cmd args len s
  · rw [if_neg hlen] at hfull; omega
  · exact absurd hz hlen
  · exact heq

theorem txDataOrHold_of_full {b : Byte} {s : State} (h : s.cfg.txqCap < s.txQ.length + (if s.txRem = 1 then 4 else 1)) :
    txDataOrHold b s = { s with held := some (.txData b) } := by
  obtain ⟨-, heq⟩ | ⟨hrem, hroom, -⟩ | ⟨hrem, hroom, -⟩ := txDataOrHold_cases b s
  · exact heq
  · rw [if_pos hrem] at h; omega
  · rw [if_neg hrem] at h; omega

theorem txDataOrHold_of_last {b : Byte} {s : State} (hrem : s.txRem = 1) (hroom : s.txQ.length + 4 ≤ s.cfg.txqCap) :
    txDataOrHold b s = { s with
      txCrc := crcStep s.txCrc b
      txQ := s.txQ ++ (b :: frameTail (crcStep s.txCrc b))
      txState := .idle
      txRem := 0 } := by
  obtain ⟨hfull, -⟩ | ⟨-, -, heq⟩ | ⟨hne, -⟩ := txDataOrHold_cases b s
  · rw [if_pos hrem] at hfull; omega
  · exact heq
  · exact absurd hrem hne

theorem txDataOrHold_of_not_last {b : Byte} {s : State} (hrem : s.txRem ≠ 1)
    (hroom : s.txQ.length + 1 ≤ s.cfg.txqCap) :
    txDataOrHold b s = { s with txCrc := crcStep s.txCrc b, txQ := s.txQ ++ [b], txRem := s.txRem - 1 } := by
  obtain ⟨hfull, -⟩ | ⟨h1, -⟩ | ⟨-, -, heq⟩ := txDataOrHold_cases b s
  · rw [if_neg hrem] at hfull; omega
  · exact absurd h1 hrem
  · exact heq

end Sys2Proof.Machine
end

section
/-! The registers whose values are unspecified are never seen (R35, R40, R41): `SameSeen` is a simulation. Every branch
condition reads registers that the relation holds equal, and a register it leaves free is written before it is read. -/

namespace Sys2Proof.Machine

theorem SameSeen.status_eq {s t : State} (h : SameSeen s t) : s.status = t.status := by
  simp only [State.status, State.statusVerify, State.statusTrlOk, State.statusTrunc, State.txBusy, h.rxDone, h.rxOvr,
    h.rxHave, h.last, h.rxState, h.txState, h.errCode]

theorem SameSeen.lastDecoded_eq {s t : State} (h : SameSeen s t) : s.lastDecoded = t.lastDecoded := by
  rw [State.lastDecoded, State.lastDecoded, h.rxHave, h.last]

theorem SameSeen.readLast_eq {s t : State} (h : SameSeen s t) (f : LastPacket → PortValue) :
    readLast f s = readLast f t := by
  rw [readLast, readLast, h.lastDecoded_eq]

/-- Every read port reads registers the relation holds equal. -/
theorem SameSeen.readPort_eq {s t : State} (h : SameSeen s t) (p : ReadPort) : readPort p s = readPort p t := by
  cases p with
  | crcOut => simp only [readPort, h.crc]
  | status => simp only [readPort, h.status_eq]
  | txLevel => simp only [readPort, h.txQ]
  | txRem => simp only [readPort, h.txRem]
  | lastData i => simp only [readPort, bufRead, h.lastDecoded_eq]
  | lastCmd => exact h.readLast_eq _
  | lastArgs => exact h.readLast_eq _
  | lastLen => exact h.readLast_eq _
  | lastRcrc => exact h.readLast_eq _
  | lastCcrc => exact h.readLast_eq _
  | lastTrailer => exact h.readLast_eq _

/-- After the turn, and after the form or the byte it consumes, both sides have the same inputs left. -/
theorem SameSeen.with_schedule {s t : State} (h : SameSeen s t) (sched : List Turn) :
    SameSeen { s with schedule := sched } { t with schedule := sched } :=
  { h with schedule := rfl }

theorem SameSeen.with_hostPort {s t : State} (h : SameSeen s t) (port : List HostItem) :
    SameSeen { s with hostPort := port } { t with hostPort := port } :=
  { h with hostPort := rfl }

theorem SameSeen.with_lineIn {s t : State} (h : SameSeen s t) (line : List Byte) :
    SameSeen { s with lineIn := line } { t with lineIn := line } :=
  { h with lineIn := rfl }

theorem SameSeen.raise {s t : State} (h : SameSeen s t) (e : OpError) : SameSeen (s.raise e) (t.raise e) := by
  rw [raise_eq, raise_eq]
  exact { h with errCode := by simp only [h.errCode] }

theorem SameSeen.txShift {s t : State} (h : SameSeen s t) : SameSeen s.txShift t.txShift := by
  rw [txShift_eq, txShift_eq]
  exact { h with txQ := congrArg List.tail h.txQ, txWire := by simp only [h.txWire, h.txQ] }

/-- In `HUNT` the relation asks nothing of the in-progress registers. -/
theorem SameSeen.rxAbort {s t : State} (h : SameSeen s t) :
    SameSeen { s with rxState := .hunt, rxIdx := 0 } { t with rxState := .hunt, rxIdx := 0 } :=
  { h with
    rxState := rfl, rxIdx := rfl
    rxCrc := fun hne => absurd rfl hne
    rxBuf := fun hne => absurd rfl hne
    fix_cmd := fun _ hne => absurd rfl hne
    fix_argsHi := fun _ hne => absurd rfl hne
    fix_argsLo := fun _ hne => absurd rfl hne
    fix_lenHi := fun _ hne => absurd rfl hne
    rxLen := nofun, rcrc_hi := nofun, rcrc_lo := nofun }

/-- The free values `RESET` draws are the same in both. -/
theorem SameSeen.applyReset {s t : State} (h : SameSeen s t) : SameSeen s.applyReset t.applyReset :=
  { h with
    crc := rfl, txState := rfl, txRem := rfl, txCrc := nofun, txQ := rfl, rxState := rfl, rxIdx := rfl
    rxCrc := fun hne => absurd rfl hne
    rxBuf := fun hne => absurd rfl hne
    fix_cmd := fun _ hne => absurd rfl hne
    fix_argsHi := fun _ hne => absurd rfl hne
    fix_argsLo := fun _ hne => absurd rfl hne
    fix_lenHi := fun _ hne => absurd rfl hne
    rxLen := nofun, rcrc_hi := nofun, rcrc_lo := nofun
    last := rfl, rxHave := rfl, rxDone := rfl, rxOvr := rfl, errCode := rfl, held := rfl
    draws := congrArg (· + 5) h.draws }

theorem SameSeen.txStartOrHold {s t : State} (h : SameSeen s t) (cmd : Byte) (args len : U16) :
    SameSeen (txStartOrHold cmd args len s) (txStartOrHold cmd args len t) := by
  obtain ⟨hfull, heq⟩ | ⟨hlen, hroom, heq⟩ | ⟨hlen, hroom, heq⟩ := txStartOrHold_cases cmd args len s <;> rw [heq]
  · rw [h.cfg, h.txQ] at hfull
    rw [txStartOrHold_of_full hfull]
    exact { h with held := rfl }
  · rw [h.cfg, h.txQ] at hroom
    rw [txStartOrHold_of_empty hlen hroom]
    exact { h with txState := rfl, txRem := rfl, txCrc := nofun, txQ := by rw [h.txQ] }
  · rw [h.cfg, h.txQ] at hroom
    rw [txStartOrHold_of_length hlen hroom]
    exact { h with txState := rfl, txRem := rfl, txCrc := fun _ => rfl, txQ := by rw [h.txQ] }

/-- In an open frame `tx_crc` is one of the registers held equal. -/
theorem SameSeen.txDataOrHold {s t : State} (h : SameSeen s t) (b : Byte) (hdata : s.txState = .data) :
    SameSeen (txDataOrHold b s) (txDataOrHold b t) := by
  have hcrc := h.txCrc hdata
  obtain ⟨hfull, heq⟩ | ⟨hrem, hroom, heq⟩ | ⟨hrem, hroom, heq⟩ := txDataOrHold_cases b s <;> rw [heq]
  · rw [h.cfg, h.txQ, h.txRem] at hfull
    rw [txDataOrHold_of_full hfull]
    exact { h with held := rfl }
  · rw [h.cfg, h.txQ] at hroom
    rw [txDataOrHold_of_last (h.txRem ▸ hrem) hroom]
    exact { h with txState := rfl, txRem := rfl, txCrc := nofun, txQ := by rw [h.txQ, hcrc] }
  · rw [h.cfg, h.txQ] at hroom
    rw [txDataOrHold_of_not_last (h.txRem ▸ hrem) hroom]
    exact { h with txRem := by rw [h.txRem], txCrc := fun _ => by rw [hcrc], txQ := by rw [h.txQ] }

theorem SameSeen.free_port {s t : State} (h : SameSeen s t) : SameSeen { s with held := none } { t with held := none } :=
  { h with held := rfl }

theorem SameSeen.resumeHeld {s t : State} {op : HeldOp} (h : SameSeen s t) (hi : Inv s) (hh : s.held = some op) :
    SameSeen (resumeHeld op s) (resumeHeld op t) := by
  cases op with
  | txStart cmd args len => exact h.free_port.txStartOrHold cmd args len
  | txData b => exact h.free_port.txDataOrHold b (hi.held_data b hh)

@[simp] theorem RxFix.set_cmd (f : RxFix) (i : Nat) (b : Byte) : (f.set i b).cmd = if i = 0 then b else f.cmd := by
  unfold RxFix.set; split <;> simp_all
@[simp] theorem RxFix.set_argsHi (f : RxFix) (i : Nat) (b : Byte) :
    (f.set i b).argsHi = if i = 1 then b else f.argsHi := by
  unfold RxFix.set; split <;> simp_all
@[simp] theorem RxFix.set_argsLo (f : RxFix) (i : Nat) (b : Byte) :
    (f.set i b).argsLo = if i = 2 then b else f.argsLo := by
  unfold RxFix.set; split <;> simp_all
@[simp] theorem RxFix.set_lenHi (f : RxFix) (i : Nat) (b : Byte) :
    (f.set i b).lenHi = if i = 3 then b else f.lenHi := by
  unfold RxFix.set; split <;> simp_all

/-- The byte at place `n`, after a byte is stored at index `i`: equal if it is that byte or was there before. -/
theorem stored_eq {n i : Nat} {a a' b : Byte} (hlt : n < i + 1) (h : n < i → a = a') :
    (if i = n then b else a) = if i = n then b else a' := by
  split
  · rfl
  · exact h (by omega)

/-- In `BODY` all the fixed fields that completion reads have been supplied. -/
theorem SameSeen.fix_of_body {s t : State} (h : SameSeen s t) (hs : s.rxState = .body) :
    s.rxFix.cmd = t.rxFix.cmd ∧ s.rxFix.argsHi = t.rxFix.argsHi ∧ s.rxFix.argsLo = t.rxFix.argsLo ∧
    s.rxFix.lenHi = t.rxFix.lenHi := by
  have hne : s.rxState ≠ .hunt := by simp [hs]
  exact ⟨h.fix_cmd (by simp [hs]) hne, h.fix_argsHi (by simp [hs]) hne, h.fix_argsLo (by simp [hs]) hne,
    h.fix_lenHi (by simp [hs]) hne⟩

/-- Past both CRC bytes the received CRC has been supplied. -/
theorem SameSeen.rxRcrc_eq {s t : State} (h : SameSeen s t) (hs : s.rxState = .body)
    (hi : s.rxLen.toNat + 1 < s.rxIdx.toNat) : s.rxRcrc = t.rxRcrc := by
  rw [← joinBytes_hiByte_loByte s.rxRcrc, h.rcrc_hi hs (by omega), h.rcrc_lo hs hi, joinBytes_hiByte_loByte]

theorem SameSeen.completedPacket_eq {s t : State} (h : SameSeen s t) (b : Byte) (hs : s.rxState = .body)
    (hi : s.rxLen.toNat + 1 < s.rxIdx.toNat) : completedPacket b s = completedPacket b t := by
  obtain ⟨hcmd, hargsHi, hargsLo, -⟩ := h.fix_of_body hs
  have hne : s.rxState ≠ .hunt := by simp [hs]
  rw [completedPacket, completedPacket, hcmd, hargsHi, hargsLo, h.rxLen hs, h.rxBuf hne, h.rxRcrc_eq hs hi, h.rxCrc hne,
    h.cfg]

/-- A received byte in `HUNT` writes all that `FIXED` starts from. -/
theorem SameSeen.rxHunt {s t : State} (h : SameSeen s t) (b : Byte) : SameSeen (rxHunt b s) (rxHunt b t) := by
  rw [rxHunt.eq_def, rxHunt.eq_def]
  split
  · exact { h with
      rxState := rfl, rxIdx := rfl, rxCrc := fun _ => rfl, rxBuf := fun _ => rfl
      fix_cmd := fun hi _ => absurd (hi rfl) (Nat.not_lt_zero _)
      fix_argsHi := fun hi _ => absurd (hi rfl) (Nat.not_lt_zero _)
      fix_argsLo := fun hi _ => absurd (hi rfl) (Nat.not_lt_zero _)
      fix_lenHi := fun hi _ => absurd (hi rfl) (Nat.not_lt_zero _)
      rxLen := nofun, rcrc_hi := nofun, rcrc_lo := nofun }
  · exact h

/-- A received byte in `FIXED` is stored on both sides, and the fifth opens `BODY` with the same length. -/
theorem SameSeen.rxFixed {s t : State} (h : SameSeen s t) (hi : Inv s) (b : Byte) (hs : s.rxState = .fixed) :
    SameSeen (rxFixed b s) (rxFixed b t) := by
  have hne : s.rxState ≠ .hunt := by simp [hs]
  have hcrc : crcStep s.rxCrc b = crcStep t.rxCrc b := by rw [h.rxCrc hne]
  by_cases h4 : s.rxIdx = 4
  case pos =>
    have hlenHi := h.fix_lenHi (fun _ => by rw [h4]; decide) hne
    rw [rxFixed_of_eq_four b h4, rxFixed_of_eq_four b (h.rxIdx ▸ h4)]
    exact { h with
      rxState := rfl, rxIdx := rfl, rxCrc := fun _ => hcrc, rxBuf := fun _ => h.rxBuf hne
      fix_cmd := fun _ _ => h.fix_cmd (fun _ => by rw [h4]; decide) hne
      fix_argsHi := fun _ _ => h.fix_argsHi (fun _ => by rw [h4]; decide) hne
      fix_argsLo := fun _ _ => h.fix_argsLo (fun _ => by rw [h4]; decide) hne
      fix_lenHi := fun _ _ => hlenHi
      rxLen := fun _ => by rw [hlenHi]
      rcrc_hi := fun _ hlt => absurd hlt (Nat.not_lt_zero _)
      rcrc_lo := fun _ hlt => absurd hlt (Nat.not_lt_zero _) }
  case neg =>
    have hidx := rxIdx_add_one_toNat (i := s.rxIdx) ((hi.fixed_idx hs).trans (by decide))
    rw [rxFixed_of_ne_four b rfl h4, rxFixed_of_ne_four b h.rxIdx.symm h4]
    exact { h with
      rxIdx := rfl
      rxCrc := fun _ => hcrc
      fix_cmd := fun hlt _ => by
        simpa using stored_eq (hidx ▸ hlt hs) fun hlt => h.fix_cmd (fun _ => hlt) hne
      fix_argsHi := fun hlt _ => by
        simpa using stored_eq (hidx ▸ hlt hs) fun hlt => h.fix_argsHi (fun _ => hlt) hne
      fix_argsLo := fun hlt _ => by
        simpa using stored_eq (hidx ▸ hlt hs) fun hlt => h.fix_argsLo (fun _ => hlt) hne
      fix_lenHi := fun hlt _ => by
        simpa using stored_eq (hidx ▸ hlt hs) fun hlt => h.fix_lenHi (fun _ => hlt) hne
      rxLen := by simp [hs], rcrc_hi := by simp [hs], rcrc_lo := by simp [hs] }

/-- In `BODY`, counting a byte on keeps the relation, with whatever it stores the same on both sides. -/
theorem SameSeen.body_byte {s t : State} (h : SameSeen s t) (hs : s.rxState = .body) {buf buf' : List Byte}
    {crc crc' rcrc rcrc' : U16} (hbuf : buf = buf') (hcrc : crc = crc')
    (hhi : s.rxLen.toNat < (s.rxIdx + 1).toNat → hiByte rcrc = hiByte rcrc')
    (hlo : s.rxLen.toNat + 1 < (s.rxIdx + 1).toNat → loByte rcrc = loByte rcrc') :
    SameSeen { s with rxBuf := buf, rxCrc := crc, rxRcrc := rcrc, rxIdx := s.rxIdx + 1 }
      { t with rxBuf := buf', rxCrc := crc', rxRcrc := rcrc', rxIdx := t.rxIdx + 1 } := by
  obtain ⟨hcmd, hargsHi, hargsLo, hlenHi⟩ := h.fix_of_body hs
  exact { h with
    rxIdx := by rw [h.rxIdx], rxCrc := fun _ => hcrc, rxBuf := fun _ => hbuf
    fix_cmd := fun _ _ => hcmd, fix_argsHi := fun _ _ => hargsHi, fix_argsLo := fun _ _ => hargsLo
    fix_lenHi := fun _ _ => hlenHi, rcrc_hi := fun _ => hhi, rcrc_lo := fun _ => hlo }

theorem SameSeen.rxData {s t : State} (h : SameSeen s t) (b : Byte) (hs : s.rxState = .body)
    (hlt : s.rxIdx.toNat < s.rxLen.toNat) : SameSeen (rxData b s) (rxData b t) := by
  have hne : s.rxState ≠ .hunt := by simp [hs]
  have hlen := s.rxLen.isLt
  have hidx := rxIdx_add_one_toNat (i := s.rxIdx) (by omega)
  exact h.body_byte hs (by rw [h.rxIdx, h.cfg, h.rxBuf hne]) (by rw [h.rxCrc hne]) (fun _ => by omega) (fun _ => by omega)

/-- Past the data: each CRC byte is stored on both sides, and completion latches the same packet. -/
theorem SameSeen.rxTail {s t : State} (h : SameSeen s t) (hi : Inv s) (b : Byte) (hs : s.rxState = .body)
    (hle : s.rxLen.toNat ≤ s.rxIdx.toNat) : SameSeen (rxTail b s) (rxTail b t) := by
  have hne : s.rxState ≠ .hunt := by simp [hs]
  have hlen := s.rxLen.isLt
  have hend := hi.body_idx hs
  have hidx := rxIdx_add_one_toNat (i := s.rxIdx) (by omega)
  have hti : t.rxIdx.toNat = s.rxIdx.toNat := by rw [h.rxIdx]
  have htl : t.rxLen.toNat = s.rxLen.toNat := by rw [h.rxLen hs]
  obtain h0 | h1 | h2 : s.rxIdx.toNat = s.rxLen.toNat ∨ s.rxIdx.toNat = s.rxLen.toNat + 1 ∨
    s.rxIdx.toNat = s.rxLen.toNat + 2 := by omega
  · rw [rxTail_of_eq_rxLen b h0, rxTail_of_eq_rxLen b (by omega)]
    exact h.body_byte hs (h.rxBuf hne) (h.rxCrc hne) (fun _ => by simp) (fun _ => by omega)
  · rw [rxTail_of_eq_rxLen_add_one b h1, rxTail_of_eq_rxLen_add_one b (by omega)]
    exact h.body_byte hs (h.rxBuf hne) (h.rxCrc hne) (fun _ => by simp [h.rcrc_hi hs (by omega)]) (fun _ => by simp)
  · rw [rxTail_of_eq_rxLen_add_two b h2, rxTail_of_eq_rxLen_add_two b (by omega)]
    exact { h.rxAbort with
      last := congrArg some (h.completedPacket_eq b hs (by omega))
      rxHave := rfl, rxDone := rfl
      rxOvr := by rw [rxComplete_rxOvr, rxComplete_rxOvr, h.rxOvr, h.rxDone] }

/-- One received byte, in each of the three states of R154. -/
theorem SameSeen.rxDeliver {s t : State} (h : SameSeen s t) (hi : Inv s) (b : Byte) :
    SameSeen (rxDeliver b s) (rxDeliver b t) := by
  cases hs : s.rxState with
  | hunt =>
    rw [rxDeliver_of_hunt b hs, rxDeliver_of_hunt b (h.rxState ▸ hs)]
    exact h.rxHunt b
  | fixed =>
    rw [rxDeliver_of_fixed b hs, rxDeliver_of_fixed b (h.rxState ▸ hs)]
    exact h.rxFixed hi b hs
  | body =>
    have hs' : t.rxState = .body := h.rxState ▸ hs
    obtain hlt | hle := Nat.lt_or_ge s.rxIdx.toNat s.rxLen.toNat
    · rw [rxDeliver_of_lt_rxLen b hs hlt, rxDeliver_of_lt_rxLen b hs' (h.rxIdx ▸ h.rxLen hs ▸ hlt)]
      exact h.rxData b hs hlt
    · rw [rxDeliver_of_rxLen_le b hs hle, rxDeliver_of_rxLen_le b hs' (h.rxIdx ▸ h.rxLen hs ▸ hle)]
      exact h.rxTail hi b hs hle

/-- A packet's words, put on the port by a request, are the same on both sides. -/
theorem SameSeen.sendPacket {s t : State} (h : SameSeen s t) (cmd : Byte) (args : U16) (data : List Byte) :
    SameSeen (s.sendPacket cmd args data) (t.sendPacket cmd args data) :=
  { h with hostPort := by rw [State.sendPacket_hostPort, State.sendPacket_hostPort, h.hostPort] }

/-- An instruction taken on both sides goes the same way. -/
theorem SameSeen.exec {i : Instr} {s t s' : State} (h : SameSeen s t) (hi : Inv s) (hs : exec i s = .next s') :
    ∃ t', exec i t = .next t' ∧ SameSeen s' t' := by
  cases i with
  | nop => cases hs; exact ⟨_, rfl, h⟩
  | crcInit => cases hs; exact ⟨_, rfl, { h with crc := rfl }⟩
  | crcByte b => cases hs; exact ⟨_, rfl, { h with crc := by rw [h.crc] }⟩
  | txStart cmd args len =>
    cases hx : s.txState with
    | idle =>
      cases (exec_txStart_of_idle cmd args len hx).symm.trans hs
      exact ⟨_, exec_txStart_of_idle cmd args len (h.txState ▸ hx), h.txStartOrHold cmd args len⟩
    | data =>
      cases (exec_txStart_of_data cmd args len hx).symm.trans hs
      exact ⟨_, exec_txStart_of_data cmd args len (h.txState ▸ hx), h.raise _⟩
  | txData b =>
    cases hx : s.txState with
    | idle =>
      cases (exec_txData_of_idle b hx).symm.trans hs
      exact ⟨_, exec_txData_of_idle b (h.txState ▸ hx), h.raise _⟩
    | data =>
      cases (exec_txData_of_data b hx).symm.trans hs
      exact ⟨_, exec_txData_of_data b (h.txState ▸ hx), h.txDataOrHold b hx⟩
  | txAbort => cases hs; exact ⟨_, rfl, { h with txState := rfl, txRem := rfl, txCrc := nofun, txQ := rfl }⟩
  | rxByte b => cases hs; exact ⟨_, rfl, h.rxDeliver hi b⟩
  | rxAbort => cases hs; exact ⟨_, rfl, h.rxAbort⟩
  | rxAck => cases hs; exact ⟨_, rfl, { h with rxDone := rfl, rxOvr := rfl }⟩
  | errClr => cases hs; exact ⟨_, rfl, { h with errCode := rfl }⟩
  | cmdCheckModelType model => cases hs; exact ⟨_, rfl, h.cfg ▸ h.sendPacket _ _ _⟩
  | cmdUpdate seq chunk => cases hs; exact ⟨_, rfl, h.sendPacket _ _ _⟩
  | cmdUpdateDataPackages total =>
    cases hs
    refine ⟨_, rfl, ?_⟩
    have hdrawn (n : Nat) : SameSeen { s with draws := s.draws + n } { t with draws := t.draws + n } :=
      { h with draws := congrArg (· + n) h.draws }
    have hargs : s.cfg.argsOther = t.cfg.argsOther := by rw [h.cfg]
    have hcount : countPayload s.cfg (s.countWord total.toNat) = countPayload t.cfg (t.countWord total.toNat) := by
      rw [State.countWord, State.countWord, h.draws, h.cfg]
    rw [hargs, hcount]
    exact (hdrawn _).sendPacket _ _ _
  | cmdHandshake => cases hs; exact ⟨_, rfl, h.cfg ▸ h.sendPacket _ _ _⟩
  | cmdIntoBoot => cases hs; exact ⟨_, rfl, h.cfg ▸ h.sendPacket _ _ _⟩
  | cmdUpdateEnd => cases hs; exact ⟨_, rfl, h.cfg ▸ h.sendPacket _ _ _⟩

/-- The relation is a simulation: the other state takes the same turn. -/
theorem SameSeen.step {s t s' : State} (h : SameSeen s t) (hi : Inv s) (hstep : step s = .next s') :
    ∃ t', step t = .next t' ∧ SameSeen s' t' := by
  have hinv (sched : List Turn) (port : List HostItem) (line : List Byte) :
      Inv { s with schedule := sched, hostPort := port, lineIn := line } := hi.with_inputs sched port line s.draws
  have hsched {l} (hs : s.schedule = l) : t.schedule = l := h.schedule ▸ hs
  have hheld {o} (hh : s.held = o) : t.held = o := h.held ▸ hh
  have hport {l} (hp : s.hostPort = l) : t.hostPort = l := h.hostPort ▸ hp
  have hline {l} (hl : s.lineIn = l) : t.lineIn = l := h.lineIn ▸ hl
  cases step_cases hstep with
  | idle hs ht => exact ⟨_, step_of_schedule_nil (hsched hs), ht ▸ h⟩
  | shift sched hs ht => exact ⟨_, step_eq_txShift (hsched hs), ht ▸ (h.with_schedule sched).txShift⟩
  | reset sched hs ht => exact ⟨_, step_eq_applyReset (hsched hs), ht ▸ (h.with_schedule sched).applyReset⟩
  | noByte sched hs hl ht => exact ⟨_, step_of_lineIn_nil (hsched hs) (hline hl), ht ▸ h.with_schedule sched⟩
  | byte sched b rest hs hl ht =>
    exact ⟨_, step_eq_exec_rxByte (hsched hs) (hline hl),
      ht ▸ ((h.with_schedule sched).with_lineIn rest).rxDeliver (hinv sched _ rest) b⟩
  | resume sched op hs hh ht =>
    exact ⟨_, step_eq_resumeHeld (hsched hs) (hheld hh), ht ▸ (h.with_schedule sched).resumeHeld (hinv sched _ _) hh⟩
  | noForm sched hs hh hp ht =>
    exact ⟨_, step_of_hostPort_nil (hsched hs) (hheld hh) (hport hp), ht ▸ h.with_schedule sched⟩
  | run sched item rest i hs hh hp hd ht =>
    rw [step_eq_exec (hsched hs) (hheld hh) (hport hp) hd]
    exact ((h.with_schedule sched).with_hostPort rest).exec (hinv sched rest _) ht
  | reservedOpcode sched item rest hs hh hp hd ht =>
    exact ⟨_, step_eq_reject (hsched hs) (hheld hh) (hport hp) hd,
      ht ▸ ((h.with_schedule sched).with_hostPort rest).raise _⟩
  | reservedBits sched item rest hs hh hp hd ht =>
    exact ⟨_, step_eq_reject (hsched hs) (hheld hh) (hport hp) hd,
      ht ▸ ((h.with_schedule sched).with_hostPort rest).raise _⟩

/-- Settles O45: the ports read none of the registers left free, and the relation is a simulation. -/
theorem unspecifiedRegistersAreNeverSeen : Obligations.UnspecifiedRegistersAreNeverSeen :=
  fun _ _ hi h => ⟨h.readPort_eq, fun _ => h.step hi⟩

end Sys2Proof.Machine
end

section
/-! What the serializer's emitting operations leave unchanged, and what a turn of the host's takes. -/

namespace Sys2Proof.Machine

/-- `TX_START` past its check writes the serializer's registers only, and neither `crc` nor the wire (R133). -/
theorem txStartOrHold_frame (cmd : Byte) (args len : U16) (s : State) :
    (txStartOrHold cmd args len s).withTxOf s = s ∧ (txStartOrHold cmd args len s).crc = s.crc ∧
      (txStartOrHold cmd args len s).txWire = s.txWire := by
  obtain ⟨-, h⟩ | ⟨-, -, h⟩ | ⟨-, -, h⟩ := txStartOrHold_cases cmd args len s <;> rw [h] <;> exact ⟨rfl, rfl, rfl⟩

/-- The same of `TX_DATA` (R134). -/
theorem txDataOrHold_frame (b : Byte) (s : State) :
    (txDataOrHold b s).withTxOf s = s ∧ (txDataOrHold b s).crc = s.crc ∧ (txDataOrHold b s).txWire = s.txWire := by
  obtain ⟨-, h⟩ | ⟨-, -, h⟩ | ⟨-, -, h⟩ := txDataOrHold_cases b s <;> rw [h] <;> exact ⟨rfl, rfl, rfl⟩

/-- A field that `withTxOf` keeps is one that the serializer's operations keep. -/
theorem eq_of_withTxOf {α : Type} {s t : State} (f : State → α) (hf : ∀ a b : State, f (a.withTxOf b) = f a)
    (h : t.withTxOf s = s) : f t = f s :=
  (hf t s).symm.trans (congrArg f h)

@[simp] theorem txStartOrHold_crc (cmd : Byte) (args len : U16) (s : State) :
    (txStartOrHold cmd args len s).crc = s.crc := (txStartOrHold_frame cmd args len s).2.1
@[simp] theorem txStartOrHold_txWire (cmd : Byte) (args len : U16) (s : State) :
    (txStartOrHold cmd args len s).txWire = s.txWire := (txStartOrHold_frame cmd args len s).2.2
@[simp] theorem txStartOrHold_errCode (cmd : Byte) (args len : U16) (s : State) :
    (txStartOrHold cmd args len s).errCode = s.errCode :=
  eq_of_withTxOf State.errCode (fun _ _ => rfl) (txStartOrHold_frame cmd args len s).1
@[simp] theorem txStartOrHold_hostPort (cmd : Byte) (args len : U16) (s : State) :
    (txStartOrHold cmd args len s).hostPort = s.hostPort :=
  eq_of_withTxOf State.hostPort (fun _ _ => rfl) (txStartOrHold_frame cmd args len s).1
@[simp] theorem txStartOrHold_schedule (cmd : Byte) (args len : U16) (s : State) :
    (txStartOrHold cmd args len s).schedule = s.schedule :=
  eq_of_withTxOf State.schedule (fun _ _ => rfl) (txStartOrHold_frame cmd args len s).1
@[simp] theorem txStartOrHold_last (cmd : Byte) (args len : U16) (s : State) :
    (txStartOrHold cmd args len s).last = s.last :=
  eq_of_withTxOf State.last (fun _ _ => rfl) (txStartOrHold_frame cmd args len s).1
@[simp] theorem txStartOrHold_rxHave (cmd : Byte) (args len : U16) (s : State) :
    (txStartOrHold cmd args len s).rxHave = s.rxHave :=
  eq_of_withTxOf State.rxHave (fun _ _ => rfl) (txStartOrHold_frame cmd args len s).1
@[simp] theorem txStartOrHold_rxDone (cmd : Byte) (args len : U16) (s : State) :
    (txStartOrHold cmd args len s).rxDone = s.rxDone :=
  eq_of_withTxOf State.rxDone (fun _ _ => rfl) (txStartOrHold_frame cmd args len s).1
@[simp] theorem txStartOrHold_rxOvr (cmd : Byte) (args len : U16) (s : State) :
    (txStartOrHold cmd args len s).rxOvr = s.rxOvr :=
  eq_of_withTxOf State.rxOvr (fun _ _ => rfl) (txStartOrHold_frame cmd args len s).1

@[simp] theorem txDataOrHold_crc (b : Byte) (s : State) : (txDataOrHold b s).crc = s.crc := (txDataOrHold_frame b s).2.1
@[simp] theorem txDataOrHold_txWire (b : Byte) (s : State) : (txDataOrHold b s).txWire = s.txWire :=
  (txDataOrHold_frame b s).2.2
@[simp] theorem txDataOrHold_errCode (b : Byte) (s : State) : (txDataOrHold b s).errCode = s.errCode :=
  eq_of_withTxOf State.errCode (fun _ _ => rfl) (txDataOrHold_frame b s).1
@[simp] theorem txDataOrHold_hostPort (b : Byte) (s : State) : (txDataOrHold b s).hostPort = s.hostPort :=
  eq_of_withTxOf State.hostPort (fun _ _ => rfl) (txDataOrHold_frame b s).1
@[simp] theorem txDataOrHold_schedule (b : Byte) (s : State) : (txDataOrHold b s).schedule = s.schedule :=
  eq_of_withTxOf State.schedule (fun _ _ => rfl) (txDataOrHold_frame b s).1
@[simp] theorem txDataOrHold_last (b : Byte) (s : State) : (txDataOrHold b s).last = s.last :=
  eq_of_withTxOf State.last (fun _ _ => rfl) (txDataOrHold_frame b s).1
@[simp] theorem txDataOrHold_rxHave (b : Byte) (s : State) : (txDataOrHold b s).rxHave = s.rxHave :=
  eq_of_withTxOf State.rxHave (fun _ _ => rfl) (txDataOrHold_frame b s).1
@[simp] theorem txDataOrHold_rxDone (b : Byte) (s : State) : (txDataOrHold b s).rxDone = s.rxDone :=
  eq_of_withTxOf State.rxDone (fun _ _ => rfl) (txDataOrHold_frame b s).1
@[simp] theorem txDataOrHold_rxOvr (b : Byte) (s : State) : (txDataOrHold b s).rxOvr = s.rxOvr :=
  eq_of_withTxOf State.rxOvr (fun _ _ => rfl) (txDataOrHold_frame b s).1

theorem taking_eq {s : State} {sched : List Turn} {item : HostItem} {rest : List HostItem} {i : Instr}
    (hs : s.schedule = .host :: sched) (hh : s.held = none) (hp : s.hostPort = item :: rest) (hd : decode item = .ok i) :
    s.taking = some i := by
  simp only [State.taking, hs, hh, hp, hd]

theorem resuming_eq {s : State} {sched : List Turn} {op : HeldOp} (hs : s.schedule = .host :: sched)
    (hh : s.held = some op) : s.resuming = some op := by
  simp only [State.resuming, hs, hh]

theorem delivering_of_lineIn {s : State} {sched : List Turn} {b : Byte} {rest : List Byte}
    (hs : s.schedule = .lineIn :: sched) (hl : s.lineIn = b :: rest) : s.delivering = some b := by
  simp only [State.delivering, hs, hl, List.head?_cons]

theorem delivering_of_taking {s : State} {sched : List Turn} {b : Byte} (hs : s.schedule = .host :: sched)
    (ht : s.taking = some (.rxByte b)) : s.delivering = some b := by
  simp only [State.delivering, hs, ht]

end Sys2Proof.Machine
end

section
/-! What a step can change of the error record, the host port and the emitted bytes (R46, R69, R226). -/

namespace Sys2Proof.Machine

theorem OpError.code_mem (e : OpError) : e.code ∈ [1#3, 2#3, 3#3, 4#3] := by cases e <;> decide

/-- Recording an error keeps an earlier one (R221). -/
theorem raise_errCode_cases (e : OpError) (s : State) :
    (s.raise e).errCode = s.errCode ∨ s.errCode = 0 ∧ (s.raise e).errCode ∈ [1#3, 2#3, 3#3, 4#3] := by
  rw [raise_eq]
  by_cases h : s.errCode = 0
  · exact .inr ⟨h, by simpa only [if_pos h] using e.code_mem⟩
  · exact .inl (if_neg h)

/-- What an instruction can do to the error record. -/
theorem exec_errCode_cases {i : Instr} {s t : State} (h : exec i s = .next t) :
    t.errCode = s.errCode ∨ (s.errCode = 0 ∧ t.errCode ∈ [1#3, 2#3, 3#3, 4#3]) ∨ (i = .errClr ∧ t.errCode = 0) := by
  cases exec_cases h with
  | startBusy => exact (raise_errCode_cases _ s).imp_right .inl
  | dataIdle => exact (raise_errCode_cases _ s).imp_right .inl
  | errClr => exact .inr (.inr ⟨rfl, rfl⟩)
  | start => exact .inl (txStartOrHold_errCode ..)
  | data => exact .inl (txDataOrHold_errCode ..)
  | rxByte => exact .inl (rxDeliver_errCode ..)
  | nop | crcInit | crcByte | txAbort | rxAbort | rxAck | command => exact .inl rfl

@[simp] theorem txShift_errCode (s : State) : s.txShift.errCode = s.errCode := by rw [txShift_eq]

@[simp] theorem resumeHeld_errCode (op : HeldOp) (s : State) : (resumeHeld op s).errCode = s.errCode := by
  cases op with
  | txStart cmd args len => exact txStartOrHold_errCode ..
  | txData b => exact txDataOrHold_errCode ..

/-- Settles O9: an error is recorded over 0 only, and only `ERR_CLR` and the reset event write 0. -/
theorem errorRecordKeepsTheFirst : Obligations.ErrorRecordKeepsTheFirst := by
  intro s t hstep hne
  cases step_cases hstep with
  | idle _ ht | noByte _ _ _ ht | noForm _ _ _ _ ht => exact absurd (ht ▸ rfl) hne
  | shift _ _ ht => exact absurd (ht ▸ txShift_errCode _) hne
  | byte _ _ _ _ _ ht => exact absurd (ht ▸ rxDeliver_errCode _ _) hne
  | resume _ _ _ _ ht => exact absurd (ht ▸ resumeHeld_errCode _ _) hne
  | reset _ hs ht => exact .inr ⟨ht ▸ rfl, .inl (by rw [hs]; rfl)⟩
  | run _ _ _ _ hs hh hp hd ht =>
    obtain heq | hset | ⟨rfl, hclr⟩ := exec_errCode_cases ht
    · exact absurd heq hne
    · exact .inl hset
    · exact .inr ⟨hclr, .inr (taking_eq hs hh hp hd)⟩
  | reservedOpcode _ _ _ _ _ _ _ ht | reservedBits _ _ _ _ _ _ _ ht =>
    subst ht
    exact .inl ((raise_errCode_cases _ _).resolve_left hne)

/-- A packet's forms are operation words (R91). -/
theorem request_not_mem_sendInstrs (code : Byte) (operands : List Byte) (cmd : Byte) (args : U16) (data : List Byte) :
    HostItem.request code operands ∉ (sendInstrs cmd args data).map encode := by
  simp [sendInstrs, encode]

/-- An instruction puts no request on the host port. -/
theorem exec_hostPort_request {i : Instr} {s t : State} (h : exec i s = .next t) {code : Byte} {operands : List Byte}
    (hmem : HostItem.request code operands ∈ t.hostPort) : HostItem.request code operands ∈ s.hostPort := by
  cases exec_cases h with
  | start => rwa [txStartOrHold_hostPort] at hmem
  | data => rwa [txDataOrHold_hostPort] at hmem
  | rxByte => rwa [rxDeliver_hostPort] at hmem
  | startBusy | dataIdle => rwa [raise_eq] at hmem
  | command _ cmd args data =>
    exact (List.mem_append.1 hmem).resolve_left (request_not_mem_sendInstrs code operands cmd args data)
  | nop | crcInit | crcByte | txAbort | rxAbort | rxAck | errClr => exact hmem

@[simp] theorem resumeHeld_hostPort (op : HeldOp) (s : State) : (resumeHeld op s).hostPort = s.hostPort := by
  cases op with
  | txStart cmd args len => exact txStartOrHold_hostPort ..
  | txData b => exact txDataOrHold_hostPort ..

/-- A step puts no request on the host port. -/
theorem step_hostPort_request {s t : State} (h : step s = .next t) {code : Byte} {operands : List Byte}
    (hmem : HostItem.request code operands ∈ t.hostPort) : HostItem.request code operands ∈ s.hostPort := by
  cases step_cases h with
  | idle _ ht | noByte _ _ _ ht | noForm _ _ _ _ ht | reset _ _ ht => subst ht; exact hmem
  | shift _ _ ht => rwa [ht, txShift_eq] at hmem
  | byte _ _ _ _ _ ht => rwa [ht, rxDeliver_hostPort] at hmem
  | resume _ _ _ _ ht => rwa [ht, resumeHeld_hostPort] at hmem
  | run _ _ _ _ _ _ hp _ ht => exact hp ▸ List.mem_cons_of_mem _ (exec_hostPort_request ht hmem)
  | reservedOpcode _ _ _ _ _ hp _ ht | reservedBits _ _ _ _ _ hp _ ht =>
    rw [ht, raise_eq] at hmem
    exact hp ▸ List.mem_cons_of_mem _ hmem

/-- A word that is no operation is one of the two errors the block records (R90). -/
theorem decodeWord_error {w : OpWord} {r : Reject} (h : decodeWord w = .error r) :
    r = .reservedOpcode ∨ r = .reservedBits := by
  have hZ {i : Instr} (h : decodeZ i w = .error r) : r = .reservedBits := by
    unfold decodeZ at h; split at h <;> cases h; rfl
  have hB {f : Byte → Instr} (h : decodeB f w = .error r) : r = .reservedBits := by
    unfold decodeB at h; split at h <;> cases h; rfl
  unfold decodeWord at h
  split at h
  case h_3 | h_5 | h_7 => exact .inr (hB h)
  case h_4 => cases h
  case h_11 => cases h; exact .inl rfl
  all_goals exact .inr (hZ h)

/-- An operation word always completes, as an operation or as an error recorded. -/
theorem acceptItem_word_next (w : OpWord) (s : State) : ∃ t, acceptItem (.word w) s = .next t := by
  cases hd : decodeWord w with
  | ok i =>
    rw [acceptItem_of_decode_ok (item := .word w) s hd]
    exact exec_next i s
  | error r =>
    rw [acceptItem_of_decode_error (item := .word w) s hd]
    obtain rfl | rfl := decodeWord_error hd
    · exact ⟨_, rfl⟩
    · exact ⟨_, rfl⟩

/-- With only known requests on the host port, the host's turn completes. -/
theorem hostStep_next {s : State} (h : s.RequestsOk) {sched : List Turn} (hs : s.schedule = .host :: sched) :
    ∃ t, step s = .next t := by
  cases hh : s.held with
  | some op => exact ⟨_, step_eq_resumeHeld hs hh⟩
  | none =>
    cases hp : s.hostPort with
    | nil => exact ⟨_, step_of_hostPort_nil hs hh hp⟩
    | cons item rest =>
      cases item with
      | word w =>
        rw [step_eq_acceptItem hs hh hp]
        exact acceptItem_word_next w _
      | request code operands =>
        obtain ⟨i, hd⟩ := h code operands (hp ▸ List.mem_cons_self)
        rw [step_eq_exec hs hh hp hd]
        exact exec_next i _

theorem step_next {s : State} (h : s.RequestsOk) : ∃ t, step s = .next t := by
  cases hs : s.schedule with
  | nil => exact ⟨s, step_of_schedule_nil hs⟩
  | cons turn sched =>
    cases turn with
    | host => exact hostStep_next h hs
    | lineIn =>
      cases hl : s.lineIn with
      | nil => exact ⟨_, step_of_lineIn_nil hs hl⟩
      | cons b rest => exact ⟨_, step_eq_exec_rxByte hs hl⟩
    | lineOut => exact ⟨_, step_eq_txShift hs⟩
    | reset => exact ⟨_, step_eq_applyReset hs⟩

/-- Settles O12: each turn completes, and no step puts a request on the port. -/
theorem stepAlwaysHasANextState : Obligations.StepAlwaysHasANextState := by
  intro s h
  obtain ⟨t, ht⟩ := step_next h
  exact ⟨t, ht, fun code operands hmem => h code operands (step_hostPort_request ht hmem)⟩

theorem prefix_of_eq {l l' : List Byte} (h : l' = l) : l <+: l' := h ▸ List.prefix_rfl

/-- With the wire as it was, what is queued at the end is emitted at the end. -/
theorem emitted_prefix {s t : State} (hw : t.txWire = s.txWire) (hq : s.txQ <+: t.txQ) : s.emitted <+: t.emitted := by
  rw [State.emitted, State.emitted, hw]
  exact (List.prefix_append_right_inj _).2 hq

theorem txStartOrHold_emitted (cmd : Byte) (args len : U16) (s : State) :
    s.emitted <+: (txStartOrHold cmd args len s).emitted := by
  obtain ⟨-, heq⟩ | ⟨-, -, heq⟩ | ⟨-, -, heq⟩ := txStartOrHold_cases cmd args len s <;> rw [heq]
  · exact List.prefix_rfl
  · exact emitted_prefix rfl (List.prefix_append _ _)
  · exact emitted_prefix rfl (List.prefix_append _ _)

theorem txDataOrHold_emitted (b : Byte) (s : State) : s.emitted <+: (txDataOrHold b s).emitted := by
  obtain ⟨-, heq⟩ | ⟨-, -, heq⟩ | ⟨-, -, heq⟩ := txDataOrHold_cases b s <;> rw [heq]
  · exact List.prefix_rfl
  · exact emitted_prefix rfl (List.prefix_append _ _)
  · exact emitted_prefix rfl (List.prefix_append _ _)

@[simp] theorem resumeHeld_txWire (op : HeldOp) (s : State) : (resumeHeld op s).txWire = s.txWire := by
  cases op with
  | txStart cmd args len => exact txStartOrHold_txWire ..
  | txData b => exact txDataOrHold_txWire ..

theorem resumeHeld_emitted (op : HeldOp) (s : State) : s.emitted <+: (resumeHeld op s).emitted := by
  cases op with
  | txStart cmd args len => exact txStartOrHold_emitted cmd args len { s with held := none }
  | txData b => exact txDataOrHold_emitted b { s with held := none }

/-- The line-out moves a byte from the queue to the wire, so what has been emitted stays the same (R140). -/
@[simp] theorem txShift_emitted (s : State) : s.txShift.emitted = s.emitted := by
  rw [txShift_eq]
  show (s.txWire ++ s.txQ.head?.toList) ++ s.txQ.tail = s.txWire ++ s.txQ
  cases s.txQ <;> simp

@[simp] theorem rxDeliver_emitted (b : Byte) (s : State) : (rxDeliver b s).emitted = s.emitted := by
  rw [State.emitted, rxDeliver_txWire, rxDeliver_txQ, State.emitted]

@[simp] theorem raise_txWire (e : OpError) (s : State) : (s.raise e).txWire = s.txWire := by rw [raise_eq]
@[simp] theorem raise_emitted (e : OpError) (s : State) : (s.raise e).emitted = s.emitted := by rw [raise_eq]; rfl

/-- No instruction writes the wire, and only `TX_ABORT` takes back what was emitted. -/
theorem exec_emitted_cases {i : Instr} {s t : State} (h : exec i s = .next t) :
    t.txWire = s.txWire ∧ (s.emitted <+: t.emitted ∨ i = .txAbort ∧ t.emitted = s.txWire) := by
  cases exec_cases h with
  | start cmd args len => exact ⟨txStartOrHold_txWire .., .inl (txStartOrHold_emitted cmd args len s)⟩
  | data b => exact ⟨txDataOrHold_txWire .., .inl (txDataOrHold_emitted b s)⟩
  | rxByte b => exact ⟨rxDeliver_txWire .., .inl (rxDeliver_emitted b s ▸ List.prefix_rfl)⟩
  | startBusy | dataIdle => exact ⟨raise_txWire .., .inl (raise_emitted _ s ▸ List.prefix_rfl)⟩
  | txAbort => exact ⟨rfl, .inr ⟨rfl, List.append_nil _⟩⟩
  | nop | crcInit | crcByte | rxAbort | rxAck | errClr | command => exact ⟨rfl, .inl List.prefix_rfl⟩

/-- Settles O28: operations append to the queue, the line-out moves its head to the wire's end, and only `TX_ABORT` and the
reset event empty the queue. -/
theorem wireIsFirstInFirstOut : Obligations.WireIsFirstInFirstOut := by
  intro s t hstep
  cases step_cases hstep with
  | idle _ ht | noByte _ _ _ ht | noForm _ _ _ _ ht =>
    subst ht
    exact ⟨List.prefix_rfl, .inl List.prefix_rfl⟩
  | shift sched _ ht =>
    subst ht
    refine ⟨?_, .inl (prefix_of_eq (txShift_emitted { s with schedule := sched }))⟩
    rw [txShift_eq]
    exact List.prefix_append _ _
  | byte sched b rest _ _ ht =>
    subst ht
    exact ⟨prefix_of_eq (rxDeliver_txWire ..),
      .inl (prefix_of_eq (rxDeliver_emitted b { s with schedule := sched, lineIn := rest }))⟩
  | resume sched op _ _ ht =>
    subst ht
    exact ⟨prefix_of_eq (resumeHeld_txWire ..), .inl (resumeHeld_emitted op { s with schedule := sched })⟩
  | reset _ hs ht =>
    subst ht
    exact ⟨List.prefix_rfl, .inr ⟨List.append_nil _, .inl (by rw [hs]; rfl)⟩⟩
  | run _ _ _ _ hs hh hp hd ht =>
    obtain ⟨hwire, hprefix | ⟨rfl, habort⟩⟩ := exec_emitted_cases ht
    · exact ⟨prefix_of_eq hwire, .inl hprefix⟩
    · exact ⟨prefix_of_eq hwire, .inr ⟨habort, .inr (taking_eq hs hh hp hd)⟩⟩
  | reservedOpcode sched _ rest _ _ _ _ ht | reservedBits sched _ rest _ _ _ _ ht =>
    subst ht
    exact ⟨prefix_of_eq (raise_txWire ..),
      .inl (prefix_of_eq (raise_emitted _ { s with schedule := sched, hostPort := rest }))⟩

end Sys2Proof.Machine
end

section
/-! The flag table of R47: the receive flags with the last-decoded registers, and `TX_BUSY`. -/

namespace Sys2Proof.Machine

/-- The last-decoded registers and the receive flags are the same in both states. -/
structure SameReceived (s t : State) : Prop where
  last : t.last = s.last
  rxHave : t.rxHave = s.rxHave
  rxDone : t.rxDone = s.rxDone
  rxOvr : t.rxOvr = s.rxOvr

/-- The byte `b`, received in `s`, completes a frame and leaves the registers as in `t` (R160). -/
structure Completes (b : Byte) (s t : State) : Prop where
  rxState : s.rxState = .body
  rxIdx : s.rxLen.toNat + 2 ≤ s.rxIdx.toNat
  last : t.last = some (completedPacket b s)
  rxHave : t.rxHave = true
  rxDone : t.rxDone = true
  rxOvr : t.rxOvr = (s.rxOvr || s.rxDone)

theorem rxDeliver_received (b : Byte) (s : State) :
    SameReceived s (rxDeliver b s) ∨ Completes b s (rxDeliver b s) := by
  obtain ⟨-, -, heq⟩ | ⟨-, -, heq⟩ | ⟨-, -, heq⟩ | ⟨-, -, heq⟩ | ⟨-, -, heq⟩ | ⟨-, -, heq⟩ | ⟨-, -, heq⟩ |
    ⟨hs, hi, heq⟩ := rxDeliver_cases b s <;> rw [heq]
  case inr.inr.inr.inr.inr.inr.inr => exact .inr ⟨hs, hi, rfl, rfl, rfl, rfl⟩
  all_goals exact .inl ⟨rfl, rfl, rfl, rfl⟩

theorem txStartOrHold_received (cmd : Byte) (args len : U16) (s : State) :
    SameReceived s (txStartOrHold cmd args len s) :=
  ⟨txStartOrHold_last .., txStartOrHold_rxHave .., txStartOrHold_rxDone .., txStartOrHold_rxOvr ..⟩

theorem txDataOrHold_received (b : Byte) (s : State) : SameReceived s (txDataOrHold b s) :=
  ⟨txDataOrHold_last .., txDataOrHold_rxHave .., txDataOrHold_rxDone .., txDataOrHold_rxOvr ..⟩

theorem raise_received (e : OpError) (s : State) : SameReceived s (s.raise e) := by
  rw [raise_eq]
  exact ⟨rfl, rfl, rfl, rfl⟩

theorem resumeHeld_received (op : HeldOp) (s : State) : SameReceived s (resumeHeld op s) := by
  cases op with
  | txStart cmd args len => exact { txStartOrHold_received cmd args len { s with held := none } with }
  | txData b => exact { txDataOrHold_received b { s with held := none } with }

/-- What an instruction can do to the receive flags. -/
theorem exec_received_cases {i : Instr} {s t : State} (h : exec i s = .next t) :
    SameReceived s t ∨ (∃ b, i = .rxByte b ∧ Completes b s t) ∨
      (i = .rxAck ∧ t.last = s.last ∧ t.rxHave = s.rxHave ∧ t.rxDone = false ∧ t.rxOvr = false) := by
  cases exec_cases h with
  | start cmd args len => exact .inl (txStartOrHold_received cmd args len s)
  | data b => exact .inl (txDataOrHold_received b s)
  | startBusy | dataIdle => exact .inl (raise_received _ s)
  | rxByte b => exact (rxDeliver_received b s).imp_right fun hc => .inl ⟨b, rfl, hc⟩
  | rxAck => exact .inr (.inr ⟨rfl, rfl, rfl, rfl, rfl⟩)
  | nop | crcInit | crcByte | txAbort | rxAbort | errClr | command => exact .inl ⟨rfl, rfl, rfl, rfl⟩

/-- Settles O46: of the operations only a completing byte, `RX_ACK` and the reset event write these registers. -/
theorem receiveFlagsChangeAsTabled : Obligations.ReceiveFlagsChangeAsTabled := by
  intro s t hstep
  have same {s₀ : State} (h : SameReceived s₀ t) (h₀ : SameReceived s s₀) :
      t.last = s.last ∧ t.rxHave = s.rxHave ∧ t.rxDone = s.rxDone ∧ t.rxOvr = s.rxOvr :=
    ⟨h.last.trans h₀.last, h.rxHave.trans h₀.rxHave, h.rxDone.trans h₀.rxDone, h.rxOvr.trans h₀.rxOvr⟩
  have consumed (sched : List Turn) (port : List HostItem) (line : List Byte) :
      SameReceived s { s with schedule := sched, hostPort := port, lineIn := line } := ⟨rfl, rfl, rfl, rfl⟩
  cases step_cases hstep with
  | idle _ ht | noByte _ _ _ ht | noForm _ _ _ _ ht => subst ht; exact .inr (.inr (.inr ⟨rfl, rfl, rfl, rfl⟩))
  | shift sched _ ht => rw [ht, txShift_eq]; exact .inr (.inr (.inr ⟨rfl, rfl, rfl, rfl⟩))
  | resume sched op _ _ ht =>
    exact .inr (.inr (.inr (same (ht ▸ resumeHeld_received op _) (consumed sched _ _))))
  | reservedOpcode sched _ rest _ _ _ _ ht | reservedBits sched _ rest _ _ _ _ ht =>
    exact .inr (.inr (.inr (same (ht ▸ raise_received _ _) (consumed sched rest _))))
  | reset _ hs ht => subst ht; exact .inl ⟨by rw [hs]; rfl, rfl, rfl, rfl, rfl⟩
  | byte sched b rest hs hl ht =>
    subst ht
    obtain hsame | hc := rxDeliver_received b { s with schedule := sched, lineIn := rest }
    · exact .inr (.inr (.inr (same hsame (consumed sched _ rest))))
    · exact .inr (.inl ⟨b, delivering_of_lineIn hs hl, hc.rxState, hc.rxIdx, ⟨_, hc.last, rfl, rfl, rfl⟩, hc.rxHave,
        hc.rxDone, hc.rxOvr⟩)
  | run sched _ rest _ hs hh hp hd ht =>
    have htaking := taking_eq hs hh hp hd
    obtain hsame | ⟨b, rfl, hc⟩ | ⟨rfl, hack⟩ := exec_received_cases ht
    · exact .inr (.inr (.inr (same hsame (consumed sched rest _))))
    · exact .inr (.inl ⟨b, delivering_of_taking hs htaking, hc.rxState, hc.rxIdx, ⟨_, hc.last, rfl, rfl, rfl⟩, hc.rxHave,
        hc.rxDone, hc.rxOvr⟩)
    · exact .inr (.inr (.inl ⟨htaking, hack⟩))

theorem txBusy_false_iff (s : State) : s.txBusy = false ↔ s.txState = .idle := by
  cases h : s.txState <;> simp [State.txBusy, h]

/-- `TX_START` past its check opens a frame only with a length. -/
theorem txStartOrHold_txState {cmd : Byte} {args len : U16} {s : State} (hidle : s.txState = .idle)
    (h : (txStartOrHold cmd args len s).txState ≠ s.txState) : len ≠ 0 := by
  obtain ⟨-, heq⟩ | ⟨-, -, heq⟩ | ⟨hlen, -, -⟩ := txStartOrHold_cases cmd args len s
  · exact absurd (heq ▸ rfl) h
  · exact absurd (heq ▸ hidle.symm) h
  · exact hlen

/-- `TX_DATA` past its check closes a frame only with its last byte. -/
theorem txDataOrHold_txState {b : Byte} {s : State} (h : (txDataOrHold b s).txState ≠ s.txState) : s.txRem = 1 := by
  obtain ⟨-, heq⟩ | ⟨hrem, -, -⟩ | ⟨-, -, heq⟩ := txDataOrHold_cases b s
  · exact absurd (heq ▸ rfl) h
  · exact hrem
  · exact absurd (heq ▸ rfl) h

/-- What an instruction can do to `tx_state`. -/
theorem exec_txState_cases {i : Instr} {s t : State} (h : exec i s = .next t) (hne : t.txState ≠ s.txState) :
    (s.txState = .idle ∧ ∃ cmd args len, len ≠ 0 ∧ i = .txStart cmd args len) ∨
    (s.txState = .data ∧ (i = .txAbort ∨ s.txRem = 1 ∧ ∃ b, i = .txData b)) := by
  cases exec_cases h with
  | start cmd args len hx => exact .inl ⟨hx, cmd, args, len, txStartOrHold_txState hx hne, rfl⟩
  | data b hx => exact .inr ⟨hx, .inr ⟨txDataOrHold_txState hne, b, rfl⟩⟩
  | txAbort =>
    cases hx : s.txState with
    | idle => exact absurd hx.symm hne
    | data => exact .inr ⟨rfl, .inl rfl⟩
  | startBusy | dataIdle => rw [raise_eq] at hne; exact absurd rfl hne
  | rxByte b => exact absurd (rxDeliver_txState b s) hne
  | nop | crcInit | crcByte | rxAbort | rxAck | errClr | command => exact absurd rfl hne

/-- What resuming can do to `tx_state`, the held operation's check having passed. -/
theorem resumeHeld_txState_cases {op : HeldOp} {s : State} (hi : Inv s) (hh : s.held = some op)
    (hne : (resumeHeld op s).txState ≠ s.txState) :
    (s.txState = .idle ∧ ∃ cmd args len, len ≠ 0 ∧ op = .txStart cmd args len) ∨
    (s.txState = .data ∧ s.txRem = 1 ∧ ∃ b, op = .txData b) := by
  cases op with
  | txStart cmd args len =>
    have hx := hi.held_start cmd args len hh
    exact .inl ⟨hx, cmd, args, len, txStartOrHold_txState (s := { s with held := none }) hx hne, rfl⟩
  | txData b =>
    exact .inr ⟨hi.held_data b hh, txDataOrHold_txState (s := { s with held := none }) hne, b, rfl⟩

/-- What a step can do to `tx_state` (R47). -/
theorem step_txState_cases {s t : State} (hi : Inv s) (hstep : step s = .next t) (hne : t.txState ≠ s.txState) :
    (s.txState = .idle ∧ ∃ cmd args len, len ≠ 0 ∧
      (s.resuming = some (.txStart cmd args len) ∨ s.taking = some (.txStart cmd args len))) ∨
    (s.txState = .data ∧ (s.schedule.head? = some .reset ∨ s.taking = some .txAbort ∨
      (s.txRem = 1 ∧ ∃ b, s.resuming = some (.txData b) ∨ s.taking = some (.txData b)))) := by
  cases step_cases hstep with
  | idle _ ht | noByte _ _ _ ht | noForm _ _ _ _ ht => exact absurd (ht ▸ rfl) hne
  | shift _ _ ht => rw [ht, txShift_eq] at hne; exact absurd rfl hne
  | byte _ _ _ _ _ ht => exact absurd (ht ▸ rxDeliver_txState _ _) hne
  | reservedOpcode _ _ _ _ _ _ _ ht | reservedBits _ _ _ _ _ _ _ ht => rw [ht, raise_eq] at hne; exact absurd rfl hne
  | reset _ hs ht =>
    cases hx : s.txState with
    | idle => rw [ht, hx] at hne; exact absurd rfl hne
    | data => exact .inr ⟨rfl, .inl (by rw [hs]; rfl)⟩
  | resume sched op hs hh ht =>
    have hres := resuming_eq hs hh
    obtain ⟨hx, cmd, args, len, hlen, rfl⟩ | ⟨hx, hrem, b, rfl⟩ :=
      resumeHeld_txState_cases (hi.with_inputs sched s.hostPort s.lineIn s.draws) hh (ht ▸ hne)
    · exact .inl ⟨hx, cmd, args, len, hlen, .inl hres⟩
    · exact .inr ⟨hx, .inr (.inr ⟨hrem, b, .inl hres⟩)⟩
  | run _ _ _ _ hs hh hp hd ht =>
    have htaking := taking_eq hs hh hp hd
    obtain ⟨hx, cmd, args, len, hlen, rfl⟩ | ⟨hx, rfl | ⟨hrem, b, rfl⟩⟩ := exec_txState_cases ht hne
    · exact .inl ⟨hx, cmd, args, len, hlen, .inr htaking⟩
    · exact .inr ⟨hx, .inr (.inl htaking)⟩
    · exact .inr ⟨hx, .inr (.inr ⟨hrem, b, .inr htaking⟩)⟩

/-- Settles O47: `TX_BUSY` is `tx_state`, and a step changes it in these ways only. -/
theorem txBusyChangesAsTabled : Obligations.TxBusyChangesAsTabled := by
  intro s t hi hstep
  refine ⟨fun hs ht => ?rises, fun hs ht => ?falls⟩
  case rises =>
    rw [txBusy_false_iff] at hs
    rw [State.txBusy_iff] at ht
    obtain ⟨-, h⟩ | ⟨hx, -⟩ := step_txState_cases hi hstep (by simp [hs, ht])
    · exact h
    · cases hs.symm.trans hx
  case falls =>
    rw [State.txBusy_iff] at hs
    rw [txBusy_false_iff] at ht
    obtain ⟨hx, -⟩ | ⟨-, h⟩ := step_txState_cases hi hstep (by simp [hs, ht])
    · cases hs.symm.trans hx
    · exact h

end Sys2Proof.Machine
end

section
/-! The turns one by one: the host's on a free port (R10, R68, R92), a held operation's (R136, R137), the line-out's (R140)
and the line-in's (R155). -/

namespace Sys2Proof.Machine

/-- Settles O5: the port takes the form, and the form is the instruction it decodes to. -/
theorem stepRunsTheDecodedForm : Obligations.StepRunsTheDecodedForm :=
  fun _ _ _ _ _ hs hh hp hd => step_eq_exec hs hh hp hd

theorem decodeRequest_unknownCommand {code : Byte} (operands : List Byte)
    (h : code ∉ [0x02#8, 0x03#8, 0x04#8, 0x0A#8, 0x42#8, 0x45#8]) :
    decodeRequest code operands = .error (.unknownCommand code) := by
  unfold decodeRequest
  split
  case h_7 => rfl
  all_goals
    next hn =>
      have hcode := congrArg (BitVec.ofNat 8) hn
      rw [BitVec.ofNat_toNat, BitVec.setWidth_eq] at hcode
      rw [hcode] at h
      exact absurd (by decide) h

theorem decodeUpdate_badOperands {code : Byte} {operands : List Byte} (h : operands.length < 2) :
    decodeUpdate code operands = .error (.badOperands code) := by
  unfold decodeUpdate
  split
  · rw [List.length_cons, List.length_cons] at h; omega
  · rfl

theorem decodePackages_badOperands {code : Byte} {operands : List Byte} (h : operands.length ≠ 4) :
    decodePackages code operands = .error (.badOperands code) := by
  unfold decodePackages
  split
  · exact absurd rfl h
  · rfl

theorem decodeBare_badOperands {i : Instr} {code : Byte} {operands : List Byte} (h : operands ≠ []) :
    decodeBare i code operands = .error (.badOperands code) := by
  unfold decodeBare
  split
  · exact absurd rfl h
  · rfl

/-- The commands that take no operand bytes. -/
theorem decodeRequest_bare {code : Byte} (h : code ∈ [0x0A#8, 0x42#8, 0x45#8]) :
    ∃ i : Instr, i.wf = true ∧ ∀ operands, decodeRequest code operands = decodeBare i code operands := by
  simp only [List.mem_cons, List.not_mem_nil, or_false] at h
  obtain rfl | rfl | rfl := h <;> exact ⟨_, rfl, fun _ => rfl⟩

/-- A request with as many operand bytes as its command needs is a well-formed instruction (R92; log 4). -/
theorem decodeRequest_ok {code : Byte} {operands : List Byte}
    (h : code = 0x02 ∧ operands.length = 32 ∨ code = 0x03 ∧ 2 ≤ operands.length ∨ code = 0x04 ∧ operands.length = 4 ∨
      code ∈ [0x0A#8, 0x42#8, 0x45#8] ∧ operands = []) :
    ∃ i, decodeRequest code operands = .ok i ∧ i.wf = true := by
  obtain ⟨rfl, hlen⟩ | ⟨rfl, hlen⟩ | ⟨rfl, hlen⟩ | ⟨hcode, rfl⟩ := h
  · have hwf : (Instr.cmdCheckModelType operands).wf = true := by simpa [Instr.wf] using hlen
    exact ⟨_, if_pos hwf, hwf⟩
  · match operands, hlen with
    | _ :: _ :: _, _ => exact ⟨_, rfl, rfl⟩
  · obtain ⟨b3, b2, b1, b0, rfl⟩ := List.length_eq_four.1 hlen
    exact ⟨_, rfl, rfl⟩
  · obtain ⟨i, hwf, hbare⟩ := decodeRequest_bare hcode
    exact ⟨i, hbare [], hwf⟩

/-- Settles O8: the code and the number of operand bytes alone decide, and what decodes completes. -/
theorem requestsWithoutAMeaningAreRefused : Obligations.RequestsWithoutAMeaningAreRefused := by
  intro s sched code operands rest hs hh hp
  have refused (r : Reject) (hd : decodeRequest code operands = .error r) :
      step s = rejectItem r { s with schedule := sched, hostPort := rest } := step_eq_reject hs hh hp hd
  refine ⟨fun h => refused _ (decodeRequest_unknownCommand operands h), fun h hlen => refused (.badOperands code) ?_,
    fun h hlen => refused (.badOperands code) ?_, fun h hlen => refused (.badOperands code) ?_,
    fun h hne => refused (.badOperands code) ?_, fun h => ?_⟩
  · subst h
    exact if_neg (by simpa [Instr.wf] using hlen)
  · subst h
    exact decodeUpdate_badOperands hlen
  · subst h
    exact decodePackages_badOperands hlen
  · obtain ⟨i, -, hbare⟩ := decodeRequest_bare h
    rw [hbare, decodeBare_badOperands hne]
  · obtain ⟨i, hd, hwf⟩ := decodeRequest_ok h
    obtain ⟨t, ht⟩ := exec_next i { s with schedule := sched, hostPort := rest }
    exact ⟨i, t, hd, hwf, (step_eq_exec hs hh hp hd).trans ht⟩

/-- Settles O21: one clause per state and room. -/
theorem txStartEmitsHeaderAndFields : Obligations.TxStartEmitsHeaderAndFields := by
  intro s cmd args len
  refine ⟨fun w hop => decodeWord_txStart hop, fun hx => ?_, fun hx hlen hroom => ?_, fun hx hlen hroom => ?_,
    fun hx hfull => ?_⟩
  · rw [exec_txStart_of_data cmd args len hx, raise_eq]
    rfl
  · rw [exec_txStart_of_idle cmd args len hx, txStartOrHold_of_empty hlen hroom]
    rfl
  · rw [exec_txStart_of_idle cmd args len hx, txStartOrHold_of_length hlen hroom]
    rfl
  · rw [exec_txStart_of_idle cmd args len hx, txStartOrHold_of_full hfull]

/-- Settles O22: one clause per state, place in the frame and room; `tx_rem` is 0 only with no frame open. -/
theorem txDataEmitsByteAndTail : Obligations.TxDataEmitsByteAndTail := by
  intro s b
  refine ⟨fun w hop => decodeWord_txData hop, fun hx => ?_, fun hx hrem hroom => ?_, fun hx hrem hroom => ?_,
    fun hx hfull => ?_, fun hi hx => ?_⟩
  · rw [exec_txData_of_idle b hx, raise_eq]
    rfl
  · rw [exec_txData_of_data b hx, txDataOrHold_of_last hrem hroom]
    rfl
  · rw [exec_txData_of_data b hx, txDataOrHold_of_not_last hrem hroom]
  · rw [exec_txData_of_data b hx, txDataOrHold_of_full hfull]
  · have hne : s.txRem ≠ 0 := fun h0 => by cases hx.symm.trans (hi.tx_rem.2 h0)
    exact Nat.one_le_iff_ne_zero.2 fun h0 => hne (BitVec.eq_of_toNat_eq h0)

/-- What is held is put back as it was. -/
theorem with_held_self {s : State} {op : HeldOp} (h : s.held = some op) :
    ({ s with held := some op } : State) = s := by
  rw [← h]

/-- A held operation without room holds again. -/
theorem resumeHeld_txStart_of_full {cmd : Byte} {args len : U16} {s : State} (hh : s.held = some (.txStart cmd args len))
    (hfull : s.cfg.txqCap < s.txQ.length + (if len = 0 then 9 else 6)) : resumeHeld (.txStart cmd args len) s = s :=
  (txStartOrHold_of_full (s := { s with held := none }) hfull).trans (with_held_self hh)

theorem resumeHeld_txData_of_full {b : Byte} {s : State} (hh : s.held = some (.txData b))
    (hfull : s.cfg.txqCap < s.txQ.length + (if s.txRem = 1 then 4 else 1)) : resumeHeld (.txData b) s = s :=
  (txDataOrHold_of_full (s := { s with held := none }) hfull).trans (with_held_self hh)

/-- Settles O24: resuming without room holds the same operation again. -/
theorem heldOperationBlocksThePort : Obligations.HeldOperationBlocksThePort := by
  intro s sched hs
  refine ⟨fun cmd args len hh hfull => ?_, fun b hh hfull => ?_⟩
  · rw [step_eq_resumeHeld hs hh, resumeHeld_txStart_of_full (s := { s with schedule := sched }) hh hfull]
  · rw [step_eq_resumeHeld hs hh, resumeHeld_txData_of_full (s := { s with schedule := sched }) hh hfull]

/-- With room, `TX_START` past its check holds nothing and emits. -/
theorem txStartOrHold_performs {cmd : Byte} {args len : U16} {s : State}
    (hroom : s.txQ.length + (if len = 0 then 9 else 6) ≤ s.cfg.txqCap) :
    (txStartOrHold cmd args len s).held = s.held ∧ (txStartOrHold cmd args len s).txQ ≠ s.txQ := by
  obtain ⟨hfull, -⟩ | ⟨-, -, heq⟩ | ⟨-, -, heq⟩ := txStartOrHold_cases cmd args len s
  · omega
  · rw [heq]; exact ⟨rfl, by simp⟩
  · rw [heq]; exact ⟨rfl, by simp⟩

/-- With room, `TX_DATA` past its check holds nothing and emits. -/
theorem txDataOrHold_performs {b : Byte} {s : State}
    (hroom : s.txQ.length + (if s.txRem = 1 then 4 else 1) ≤ s.cfg.txqCap) :
    (txDataOrHold b s).held = s.held ∧ (txDataOrHold b s).txQ ≠ s.txQ := by
  obtain ⟨hfull, -⟩ | ⟨-, -, heq⟩ | ⟨-, -, heq⟩ := txDataOrHold_cases b s
  · omega
  · rw [heq]; exact ⟨rfl, by simp⟩
  · rw [heq]; exact ⟨rfl, by simp⟩

/-- Settles O25: the invariant says that a second check would pass, so resuming is what the operation does on a free port. -/
theorem heldOperationPerformsWithRoom : Obligations.HeldOperationPerformsWithRoom := by
  intro s sched hi hs
  refine ⟨fun cmd args len hh hroom => ⟨_, step_eq_resumeHeld hs hh, ?_, ?_⟩,
    fun b hh hroom => ⟨_, step_eq_resumeHeld hs hh, ?_, ?_⟩⟩
  · exact exec_txStart_of_idle (s := { s with schedule := sched, held := none }) cmd args len
      (hi.held_start cmd args len hh)
  · exact txStartOrHold_performs (s := { s with schedule := sched, held := none }) hroom
  · exact exec_txData_of_data (s := { s with schedule := sched, held := none }) b (hi.held_data b hh)
  · exact txDataOrHold_performs (s := { s with schedule := sched, held := none }) hroom

/-- With room for nine bytes, resuming frees the port, whatever is held (R136). -/
theorem resumeHeld_held {op : HeldOp} {s : State} (hroom : s.txQ.length + 9 ≤ s.cfg.txqCap) :
    (resumeHeld op s).held = none := by
  cases op with
  | txStart cmd args len =>
    exact (txStartOrHold_performs (s := { s with held := none }) (hroom.trans' (by split <;> simp))).1
  | txData b => exact (txDataOrHold_performs (s := { s with held := none }) (hroom.trans' (by split <;> simp))).1

theorem core_run_succ {n : Nat} {s t : State} (h : step s = .next t) :
    Host.Core.run core (n + 1) s = Host.Core.run core n t := by
  have hstep : core.step s = .next t := h
  simp only [Host.Core.run, hstep]

/-- `n` turns of the line-out in a row move `n` bytes, or all there are (R140). -/
theorem core_run_lineOut (n : Nat) {m : Nat} {s : State} {sched : List Turn}
    (hs : s.schedule = List.replicate n .lineOut ++ sched) :
    Host.Core.run core (m + n) s = Host.Core.run core m
      { s with schedule := sched, txQ := s.txQ.drop n, txWire := s.txWire ++ s.txQ.take n } := by
  induction n generalizing s with
  | zero =>
    have hsched : s.schedule = sched := hs
    rw [← hsched, List.drop_zero, List.take_zero, List.append_nil]
    rfl
  | succ n ih =>
    have hfirst : s.schedule = .lineOut :: (List.replicate n .lineOut ++ sched) := hs
    refine (core_run_succ (step_eq_txShift hfirst)).trans ((ih (by rw [txShift_eq])).trans ?_)
    rw [txShift_eq]
    cases hq : s.txQ <;> simp

/-- Settles O26: nine turns of the line-out leave room for nine bytes, and the host's turn then performs. -/
theorem nineShiftsLiftAnyHold : Obligations.NineShiftsLiftAnyHold := by
  intro s op sched hi hh hs
  have hroom : (s.txQ.drop 9).length + 9 ≤ s.cfg.txqCap := by
    have hlevel := hi.tx_level
    have hcap := hi.cfg_wf.1
    rw [List.length_drop]
    omega
  refine ⟨_, (core_run_lineOut 9 (m := 1) hs).trans (core_run_succ (step_eq_resumeHeld rfl hh)), ?_⟩
  exact resumeHeld_held hroom

/-- Settles O27: the line-out's turn is `TX_SHIFT`, by the queue it finds. -/
theorem txShiftMovesTheHead : Obligations.TxShiftMovesTheHead := by
  intro s sched hs
  refine ⟨fun b q hq => ?_, fun hq => ?_⟩
  · rw [step_eq_txShift hs, State.txShift]
    simp only [hq]
  · rw [step_eq_txShift hs, State.txShift]
    simp only [hq]

/-- Settles O37: a received byte writes the deserializer's registers only, and the line-in's turn looks at no held word. -/
theorem rxByteNeverHolds : Obligations.RxByteNeverHolds :=
  fun s b => ⟨⟨_, exec_rxByte b s, rxDeliver_frame b s⟩, fun _ _ hs hl => step_eq_exec_rxByte hs hl,
    fun _ hop => acceptItem_of_decodeB s (decodeWord_rxByte hop)⟩

/-- The host acts on a waiting frame whose `VERIFY` bit is 1, and reads its arguments. -/
theorem hostReply_some {s : State} {r : Reply} (h : s.hostReply = some r) :
    s.rxDone = true ∧ s.statusVerify = true ∧ ∃ p, s.last = some p ∧ r = replyOf p.args := by
  unfold State.hostReply at h
  split at h
  next hcond =>
    obtain ⟨hdone, hverify⟩ := Bool.and_eq_true_iff.1 hcond
    obtain ⟨p, hp, hr⟩ := Option.map_eq_some_iff.1 h
    exact ⟨hdone, hverify, p, hp, hr.symm⟩
  next => cases h

/-- Settles O57: the invariant says what the `VERIFY` bit compares. -/
theorem hostActsOnlyOnVerifiedPackets : Obligations.HostActsOnlyOnVerifiedPackets := by
  intro s r hi h
  obtain ⟨hdone, hverify, p, hp, rfl⟩ := hostReply_some h
  have hv : p.verify = true := by
    rw [State.statusVerify, hp, Option.any_some, Bool.and_eq_true_iff] at hverify
    exact hverify.2
  rw [(hi.last_ok p hp).verify_eq, beq_iff_eq] at hv
  exact ⟨hdone, p, hp, hv, rfl⟩

end Sys2Proof.Machine
end

section
/-! `crc` along a row of instructions (R115), and the wide register (R112). -/

namespace Sys2Proof.Machine

/-- What an instruction does to the stand-alone unit's register (R113, R114). -/
def crcAfter (c : U16) : Instr → U16
  | .crcInit => 0
  | .crcByte b => crcStep c b
  | _ => c

theorem crcAfter_of_isCommand {c : U16} {i : Instr} (h : i.isCommand = true) : crcAfter c i = c := by
  cases i with
  | crcInit | crcByte => cases h
  | _ => rfl

theorem exec_crc {i : Instr} {s t : State} (h : exec i s = .next t) : t.crc = crcAfter s.crc i := by
  cases exec_cases h with
  | start => exact txStartOrHold_crc ..
  | data => exact txDataOrHold_crc ..
  | rxByte => exact rxDeliver_crc ..
  | startBusy | dataIdle => rw [raise_eq]; rfl
  | command _ _ _ _ _ hi => exact (crcAfter_of_isCommand hi).symm
  | nop | crcInit | crcByte | txAbort | rxAbort | rxAck | errClr => rfl

theorem execAll_crc {is : List Instr} {s t : State} (h : execAll is s = .next t) : t.crc = is.foldl crcAfter s.crc := by
  induction is generalizing s with
  | nil => cases h; rfl
  | cons i is ih =>
    obtain ⟨u, hu⟩ := exec_next i s
    simp only [execAll, hu] at h
    rw [ih h, exec_crc hu, List.foldl_cons]

/-- Instructions that leave `crc` may be left out of the row. -/
theorem foldl_crcAfter_filter {p : Instr → Bool} (hp : ∀ c i, p i = false → crcAfter c i = c) (is : List Instr) (c : U16) :
    (is.filter p).foldl crcAfter c = is.foldl crcAfter c := by
  induction is generalizing c with
  | nil => rfl
  | cons i is ih =>
    cases hpi : p i with
    | true => rw [List.filter_cons_of_pos hpi, List.foldl_cons, List.foldl_cons, ih]
    | false => rw [List.filter_cons_of_neg (by simp [hpi]), List.foldl_cons, hp c i hpi, ih]

/-- `CRC_BLOCK` computes the CRC, whatever was in the register. -/
theorem foldl_crcAfter_asmCrcBlock (bytes : List Byte) (c : U16) : (asmCrcBlock bytes).foldl crcAfter c = crc16 bytes := by
  show (bytes.map Instr.crcByte).foldl crcAfter 0 = _
  rw [List.foldl_map]
  rfl

/-- Settles O17: the other instructions leave `crc`, and those that write it are `CRC_BLOCK`. -/
theorem crcOutIsTheCrcOfTheBytes : Obligations.CrcOutIsTheCrcOfTheBytes := by
  intro bytes is s h
  obtain ⟨t, ht⟩ := execAll_next is s
  refine ⟨t, ht, ?_⟩
  have hcrc : t.crc = crc16 bytes := by
    rw [execAll_crc ht, ← foldl_crcAfter_filter (fun c i hi => ?_) is, h, foldl_crcAfter_asmCrcBlock]
    cases i with
    | crcInit | crcByte => cases hi
    | _ => rfl
  rw [readPort, hcrc]

/-- The low 16 bits of a wide iteration are an iteration on the low 16 bits (R112). -/
theorem ofNat_crcShiftWide (v : Nat) : BitVec.ofNat 16 (crcShiftWide v) = crcShift (BitVec.ofNat 16 v) := by
  have hshift : BitVec.ofNat 16 (v <<< 1) = BitVec.ofNat 16 v <<< 1 := by
    apply BitVec.eq_of_toNat_eq
    simp [Nat.shiftLeft_eq]
  rw [crcShiftWide, crcShift, BitVec.getLsbD_ofNat]
  cases v.testBit 15 with
  | true => simp [hshift, crcPoly]
  | false => simp [hshift]

theorem ofNat_crcShiftsWide (n v : Nat) : BitVec.ofNat 16 (crcShiftsWide n v) = crcShifts n (BitVec.ofNat 16 v) := by
  induction n generalizing v with
  | zero => rfl
  | succ n ih => rw [crcShiftsWide, ih, ofNat_crcShiftWide, crcShifts]

theorem ofNat_crcStepWide (c : Nat) (b : Byte) : BitVec.ofNat 16 (crcStepWide c b) = crcStep (BitVec.ofNat 16 c) b := by
  have hbyte : BitVec.ofNat 16 (b.toNat <<< 8) = joinBytes b 0 := by
    simp [joinBytes_eq_ofNat, Nat.shiftLeft_eq]
  rw [crcStepWide, ofNat_crcShiftsWide, BitVec.ofNat_xor, hbyte, crcStep]

theorem ofNat_foldl_crcStepWide (s : List Byte) (c : Nat) :
    BitVec.ofNat 16 (s.foldl crcStepWide c) = crc16From (BitVec.ofNat 16 c) s := by
  induction s generalizing c with
  | nil => rfl
  | cons b s ih => rw [List.foldl_cons, ih, ofNat_crcStepWide]; rfl

/-- Settles O18: the mask keeps the low 16 bits, which the wide register computes as the narrow one does. -/
theorem wideRegisterGivesTheSameCrc : Obligations.WideRegisterGivesTheSameCrc := by
  intro s
  calc crc16Wide s
      = s.foldl crcStepWide 0 % 2 ^ 16 := Nat.and_two_pow_sub_one_eq_mod _ 16
    _ = (BitVec.ofNat 16 (s.foldl crcStepWide 0)).toNat := (BitVec.toNat_ofNat _ 16).symm
    _ = (crc16 s).toNat := by rw [ofNat_foldl_crcStepWide]; rfl

end Sys2Proof.Machine
end

section
/-! The four laws of R117. -/

namespace Sys2Proof.Machine

theorem getLsbD_joinBytes (h l : Byte) (i : Nat) :
    (joinBytes h l).getLsbD i = if i < 8 then l.getLsbD i else h.getLsbD (i - 8) := by
  have hl : l.getLsbD i = true → i < 8 := BitVec.lt_of_getLsbD
  have hh : h.getLsbD (i - 8) = true → i - 8 < 8 := BitVec.lt_of_getLsbD
  rw [joinBytes, BitVec.getLsbD_or, BitVec.getLsbD_shiftLeft, BitVec.getLsbD_setWidth, BitVec.getLsbD_setWidth]
  split <;> grind

theorem joinBytes_xor (h h' l l' : Byte) : joinBytes (h ^^^ h') (l ^^^ l') = joinBytes h l ^^^ joinBytes h' l' := by
  apply BitVec.eq_of_getLsbD_eq
  intro i _
  simp only [BitVec.getLsbD_xor, getLsbD_joinBytes]
  split <;> rfl

/-- A byte moved up by eight places is in the high byte. -/
theorem joinBytes_loByte_zero (c : U16) : joinBytes (loByte c) 0 = c <<< 8 := by
  apply BitVec.eq_of_toNat_eq
  rw [joinBytes_toNat, loByte_toNat, BitVec.toNat_shiftLeft, Nat.shiftLeft_eq]
  show c.toNat % 256 * 256 + 0 = c.toNat * 256 % 65536
  omega

/-- R117(a): the register's high byte meets the byte; its low byte moves up untouched. -/
theorem crcStep_eq_table (c : U16) (b : Byte) : crcStep c b = (c <<< 8) ^^^ crcStep 0 (hiByte c ^^^ b) := by
  have hsplit : c ^^^ joinBytes b 0 = joinBytes 0 (loByte c) ^^^ joinBytes (hiByte c ^^^ b) 0 := by
    calc c ^^^ joinBytes b 0
        = joinBytes (hiByte c) (loByte c) ^^^ joinBytes b 0 := by rw [joinBytes_hiByte_loByte]
      _ = joinBytes (0 ^^^ (hiByte c ^^^ b)) (loByte c ^^^ 0) := by rw [← joinBytes_xor]; simp
      _ = joinBytes 0 (loByte c) ^^^ joinBytes (hiByte c ^^^ b) 0 := joinBytes_xor ..
  have htable : crcStep 0 (hiByte c ^^^ b) = crcShifts 8 (joinBytes (hiByte c ^^^ b) 0) := by simp [crcStep]
  rw [crcStep, hsplit, crcShifts_xor, crcShifts_low_byte, joinBytes_loByte_zero, htable]

/-- R117(b): from 0, zero bytes leave 0. -/
theorem crc16From_zero_replicate (k : Nat) : crc16From 0 (List.replicate k 0) = 0 := by
  induction k with
  | zero => rfl
  | succ k ih =>
    have hfirst : crc16From 0 (List.replicate (k + 1) 0) = crc16From (crcStep 0 0) (List.replicate k 0) := rfl
    rw [hfirst, crcStep_zero_zero, ih]

/-- R117(c): the CRC's own bytes bring the register to 0. -/
theorem crc16From_own_bytes (c : U16) : crc16From c [hiByte c, loByte c] = 0 := by
  have hfirst : crcStep c (hiByte c) = joinBytes (loByte c) 0 := by
    rw [crcStep_eq_table, BitVec.xor_self, ← BitVec.ofNat_eq_ofNat, crcStep_zero_zero, joinBytes_loByte_zero]
    exact BitVec.xor_zero
  have hsecond : crcStep (joinBytes (loByte c) 0) (loByte c) = 0 := by
    rw [crcStep_eq_table, hiByte_joinBytes, BitVec.xor_self, ← BitVec.ofNat_eq_ofNat, crcStep_zero_zero,
      ← joinBytes_loByte_zero, loByte_joinBytes]
    decide
  show crcStep (crcStep c (hiByte c)) (loByte c) = 0
  rw [hfirst, hsecond]

/-- Sequences of the form `a ++ x :: b` that differ in `x` differ in their CRC. -/
theorem crc16_append_cons_ne (a b : List Byte) {x y : Byte} (h : x ≠ y) : crc16 (a ++ x :: b) ≠ crc16 (a ++ y :: b) := by
  rw [crc16_append, crc16_append]
  intro heq
  exact h (crcStep_injective_right (crc16From_injective (s := b) heq))

theorem flipped_ne (b : Byte) {k : Nat} (hk : k < 8) : b ^^^ BitVec.twoPow 8 k ≠ b := by
  intro h
  have hbit := congrArg (fun x => x.getLsbD k) h
  simp [hk] at hbit

/-- R117(d): one changed byte, one flipped bit among them, changes the CRC. -/
theorem crc16_modify_ne (s : List Byte) {i k : Nat} (hi : i < s.length) (hk : k < 8) :
    crc16 (s.modify i (fun b => b ^^^ BitVec.twoPow 8 k)) ≠ crc16 s := by
  rw [List.modify_eq_take_cons_drop hi]
  conv_rhs => rw [← List.take_append_drop i s, List.drop_eq_getElem_cons hi]
  exact crc16_append_cons_ne _ _ (flipped_ne _ hk)

/-- Settles O20: the table form is linearity, and the other three laws follow the register through the sequence. -/
theorem crcLawsOfTheSpec : Obligations.CrcLawsOfTheSpec := by
  refine ⟨crcStep_eq_table, fun k s => ?_, fun s => ?_, fun s i k hi hk => crc16_modify_ne s hi hk⟩
  · rw [crc16_append, crc16, crc16From_zero_replicate]
    rfl
  · rw [crc16_append, crc16From_own_bytes]

end Sys2Proof.Machine
end

section
/-! The CRC as a remainder of polynomials over GF(2) (R116, G3). A word is the polynomial of its bits; an iteration of R110
multiplies by `X` and takes away the divisor when bit 15 is shifted out. -/

namespace Sys2Proof.Machine

open Polynomial

/-- The polynomial whose coefficients are the bits. -/
noncomputable def bitPoly {n : Nat} (v : BitVec n) : (ZMod 2)[X] :=
  ∑ i ∈ Finset.range n, if v.getLsbD i then X ^ i else 0

/-- The divisor of R116. -/
noncomputable def crcDivisor : (ZMod 2)[X] := X ^ 16 + X ^ 12 + X ^ 5 + 1

/-- `r` is what is left of `p` after taking away a multiple of the divisor. -/
def IsRemainder (p r : (ZMod 2)[X]) : Prop := ∃ q, p = q * crcDivisor + r

theorem IsRemainder.refl (p : (ZMod 2)[X]) : IsRemainder p p := ⟨0, by ring⟩

theorem IsRemainder.trans {p q r : (ZMod 2)[X]} (h : IsRemainder p q) (h' : IsRemainder q r) : IsRemainder p r := by
  obtain ⟨a, rfl⟩ := h
  obtain ⟨b, rfl⟩ := h'
  exact ⟨a + b, by ring⟩

theorem IsRemainder.mul_add {p r : (ZMod 2)[X]} (h : IsRemainder p r) (m a : (ZMod 2)[X]) :
    IsRemainder (p * m + a) (r * m + a) := by
  obtain ⟨q, rfl⟩ := h
  exact ⟨q * m, by ring⟩

theorem bitPoly_zero {n : Nat} : bitPoly (0 : BitVec n) = 0 := by simp [bitPoly]

/-- Over GF(2), XOR is addition. -/
theorem bitPoly_xor {n : Nat} (v w : BitVec n) : bitPoly (v ^^^ w) = bitPoly v + bitPoly w := by
  rw [bitPoly, bitPoly, bitPoly, ← Finset.sum_add_distrib]
  refine Finset.sum_congr rfl fun i _ => ?_
  rw [BitVec.getLsbD_xor]
  cases v.getLsbD i <;> cases w.getLsbD i <;> simp [CharTwo.add_self_eq_zero]

/-- A shift multiplies by `X`, up to the bit it drops. -/
theorem bitPoly_mul_X (v : U16) : bitPoly v * X = bitPoly (v <<< 1) + if v.getLsbD 15 then X ^ 16 else 0 := by
  have hterm (i : Nat) (hi : i < 15) :
      (if (v <<< 1).getLsbD (i + 1) then (X : (ZMod 2)[X]) ^ (i + 1) else 0) = (if v.getLsbD i then X ^ i else 0) * X := by
    have hbit : (v <<< 1).getLsbD (i + 1) = v.getLsbD i := by
      rw [BitVec.getLsbD_shiftLeft]
      simp [show i + 1 < 16 by omega]
    rw [hbit, ite_mul, zero_mul, pow_succ]
  have hzero : (v <<< 1).getLsbD 0 = false := by simp
  rw [bitPoly, bitPoly, Finset.sum_range_succ (n := 15), Finset.sum_range_succ' (n := 15), hzero, add_mul, ite_mul, zero_mul,
    ← pow_succ, Finset.sum_mul, Finset.sum_congr rfl fun i hi => hterm i (Finset.mem_range.1 hi)]
  simp

theorem bitPoly_crcPoly : bitPoly crcPoly = X ^ 12 + X ^ 5 + 1 := by
  simp [bitPoly, crcPoly, Finset.sum_range_succ]
  ring

/-- One iteration: the bit shifted out is fed back as the divisor's lower part. -/
theorem isRemainder_crcShift (v : U16) : IsRemainder (bitPoly v * X) (bitPoly (crcShift v)) := by
  rw [bitPoly_mul_X, crcShift]
  cases v.getLsbD 15 with
  | false => exact ⟨0, by simp⟩
  | true =>
    have htwo : (2 : (ZMod 2)[X]) = 0 := CharTwo.two_eq_zero
    refine ⟨1, ?_⟩
    simp only [if_true, bitPoly_xor, bitPoly_crcPoly, crcDivisor]
    linear_combination (-(X ^ 12 + X ^ 5 + 1)) * htwo

theorem isRemainder_crcShifts (n : Nat) (v : U16) : IsRemainder (bitPoly v * X ^ n) (bitPoly (crcShifts n v)) := by
  induction n generalizing v with
  | zero => simpa [crcShifts] using IsRemainder.refl (bitPoly v)
  | succ n ih =>
    have hfirst := (isRemainder_crcShift v).mul_add (X ^ n) 0
    rw [add_zero, add_zero, mul_assoc, ← pow_succ'] at hfirst
    exact hfirst.trans (ih (crcShift v))

/-- A byte in the high half stands eight places up. -/
theorem bitPoly_joinBytes_zero (b : Byte) : bitPoly (joinBytes b 0) = bitPoly b * X ^ 8 := by
  simp only [bitPoly, getLsbD_joinBytes, Finset.sum_mul, ite_mul, zero_mul, ← pow_add]
  rw [Finset.sum_range_add _ 8 8, Finset.sum_eq_zero fun i hi => ?_, zero_add]
  · simp [add_comm]
  · simp [Finset.mem_range.1 hi]

/-- A step takes in the next byte of the message (R110). -/
theorem isRemainder_crcStep (c : U16) (b : Byte) :
    IsRemainder (bitPoly c * X ^ 8 + bitPoly b * X ^ 16) (bitPoly (crcStep c b)) := by
  have h := isRemainder_crcShifts 8 (c ^^^ joinBytes b 0)
  rwa [bitPoly_xor, bitPoly_joinBytes_zero, add_mul, mul_assoc, ← pow_add] at h

/-- The message polynomial with one more byte, from the one before. -/
noncomputable def messagePoly (p : (ZMod 2)[X]) (b : Byte) : (ZMod 2)[X] := p * X ^ 8 + bitPoly b

theorem isRemainder_crc16From {p : (ZMod 2)[X]} {c : U16} (h : IsRemainder (p * X ^ 16) (bitPoly c)) (s : List Byte) :
    IsRemainder (s.foldl messagePoly p * X ^ 16) (bitPoly (crc16From c s)) := by
  induction s generalizing p c with
  | nil => exact h
  | cons b s ih =>
    refine ih ?_
    have hnext : messagePoly p b * X ^ 16 = p * X ^ 16 * X ^ 8 + bitPoly b * X ^ 16 := by rw [messagePoly]; ring
    rw [hnext]
    exact (h.mul_add _ _).trans (isRemainder_crcStep c b)

/-- Settles O19: byte by byte the register is the remainder of the message so far, times `X ^ 16`. -/
theorem crcIsThePolynomialRemainder : Obligations.CrcIsThePolynomialRemainder := by
  intro s
  have hstart : IsRemainder (0 * X ^ 16) (bitPoly (0 : U16)) := by
    rw [bitPoly_zero, zero_mul]
    exact IsRemainder.refl 0
  exact isRemainder_crc16From hstart s

end Sys2Proof.Machine
end

section
/-! The reference functions on whole sequences (R130, R150): when `decode` gives fields, and the round trip. -/

namespace Sys2Proof.Machine

theorem decodePacket_of_short {raw : List Byte} (h : raw.length < 6) : decodePacket raw = none := by
  unfold decodePacket
  split
  · simp only [List.length_cons] at h; omega
  · rfl

/-- Three bytes past the data are what `decode` asks for. -/
theorem decodePacket_isSome_iff (h0 cmd a1 a0 l1 l0 : Byte) (rest : List Byte) :
    (decodePacket (h0 :: cmd :: a1 :: a0 :: l1 :: l0 :: rest)).isSome ↔ rest.length = (joinBytes l1 l0).toNat + 3 := by
  constructor
  · intro h
    obtain ⟨d, hd⟩ := Option.isSome_iff_exists.1 h
    obtain ⟨_, _, _, _, _, _, c1, c0, t, ds, hraw, hl, -⟩ := decodePacket_some hd
    simp only [List.cons.injEq] at hraw
    obtain ⟨-, -, -, -, rfl, rfl, rfl⟩ := hraw
    rw [List.length_append, hl]
    rfl
  · intro h
    obtain ⟨c1, c0, t, ht⟩ : ∃ c1 c0 t, rest.drop (joinBytes l1 l0).toNat = [c1, c0, t] :=
      List.length_eq_three.1 (by rw [List.length_drop]; omega)
    rw [← List.take_append_drop (joinBytes l1 l0).toNat rest, ht,
      decodePacket_of_shape h0 cmd a1 a0 l1 l0 c1 c0 t _ (by rw [List.length_take]; omega)]
    rfl

/-- Settles O38: the length field says how long the sequence is. -/
theorem decodeNeedsExactlyAFrame : Obligations.DecodeNeedsExactlyAFrame := by
  intro raw
  refine ⟨decodePacket_of_short, fun l1 l0 h1 h0 => ?_⟩
  match raw, h1, h0 with
  | x :: cmd :: a1 :: a0 :: _ :: _ :: rest, rfl, rfl =>
    rw [decodePacket_isSome_iff, joinBytes_toNat]
    simp only [List.length_cons]
    omega

theorem ofNat_length_toNat {data : List Byte} (h : data.length ≤ 65535) :
    (BitVec.ofNat 16 data.length).toNat = data.length := by
  rw [BitVec.toNat_ofNat, Nat.mod_eq_of_lt (by omega)]

/-- The length field of an encoded packet, read back from its two bytes. -/
theorem lengthField_toNat {data : List Byte} (h : data.length ≤ 65535) :
    (joinBytes (hiByte (BitVec.ofNat 16 data.length)) (loByte (BitVec.ofNat 16 data.length))).toNat = data.length := by
  rw [joinBytes_hiByte_loByte, ofNat_length_toNat h]

theorem joinBytes_beq_self (c : U16) : (joinBytes (hiByte c) (loByte c) == c) = true := by
  rw [joinBytes_hiByte_loByte, beq_self_eq_true]

/-- Settles O40: an encoded packet has the shape `decode` accepts, with the CRC and the trailer it compares with. -/
theorem decodeOfEncodeIsThePacket : Obligations.DecodeOfEncodeIsThePacket := by
  intro cmd args data frame h
  obtain ⟨hl, rfl⟩ := encodePacket_some h
  exact ⟨by simp only [List.length_cons, List.length_append, List.length_nil]; omega, _,
    decodePacket_of_shape _ _ _ _ _ _ _ _ _ data (lengthField_toNat hl).symm, rfl, joinBytes_hiByte_loByte args,
    lengthField_toNat hl, rfl, joinBytes_beq_self (crc16 (crcRegion cmd args data)), rfl⟩

end Sys2Proof.Machine
end

section
/-! A frame through the deserializer, byte by byte (R156 to R160): the fixed fields, then the body up to the last byte, with
nothing of the last decoded packet changed, then the byte that completes it. -/

namespace Sys2Proof.Machine

theorem deliver_cons (b : Byte) (bs : List Byte) (s : State) : deliver (b :: bs) s = deliver bs (rxDeliver b s) := rfl

theorem SameReceived.trans {s t u : State} (h : SameReceived s t) (h' : SameReceived t u) : SameReceived s u :=
  ⟨h'.last.trans h.last, h'.rxHave.trans h.rxHave, h'.rxDone.trans h.rxDone, h'.rxOvr.trans h.rxOvr⟩

/-- Before its sixth byte a frame is not in its body, and completes nothing. -/
theorem deliver_fixed_prefix (s : State) (cmd a1 a0 l1 l0 : Byte) (h : s.rxState = .hunt) {k : Nat} (hk : k < 6) :
    ∃ t, deliver ([0xAA, cmd, a1, a0, l1, l0].take k) s = .next t ∧ SameReceived s t := by
  obtain ⟨⟩ := s
  simp only at h
  subst h
  interval_cases k <;> exact ⟨_, rfl, rfl, rfl, rfl, rfl⟩

/-- A byte of the body before the last: the index moves on and nothing completes. -/
theorem rxDeliver_in_body {b : Byte} {s : State} (h : s.rxState = .body) (hi : s.rxIdx.toNat < s.rxLen.toNat + 2) :
    (rxDeliver b s).rxState = .body ∧ (rxDeliver b s).rxIdx.toNat = s.rxIdx.toNat + 1 ∧
      (rxDeliver b s).rxLen = s.rxLen ∧ SameReceived s (rxDeliver b s) := by
  have hlen := s.rxLen.isLt
  have hidx := rxIdx_add_one_toNat (i := s.rxIdx) (by omega)
  obtain hlt | h0 | h1 : s.rxIdx.toNat < s.rxLen.toNat ∨ s.rxIdx.toNat = s.rxLen.toNat ∨
    s.rxIdx.toNat = s.rxLen.toNat + 1 := by omega
  · rw [rxDeliver_of_lt_rxLen b h hlt]
    exact ⟨h, hidx, rfl, rfl, rfl, rfl, rfl⟩
  · rw [rxDeliver_of_rxLen_le b h (by omega), rxTail_of_eq_rxLen b h0]
    exact ⟨h, hidx, rfl, rfl, rfl, rfl, rfl⟩
  · rw [rxDeliver_of_rxLen_le b h (by omega), rxTail_of_eq_rxLen_add_one b h1]
    exact ⟨h, hidx, rfl, rfl, rfl, rfl, rfl⟩

/-- The same for a run of bytes that stops before the last. -/
theorem deliver_in_body (bs : List Byte) {s : State} (h : s.rxState = .body)
    (hi : s.rxIdx.toNat + bs.length ≤ s.rxLen.toNat + 2) :
    ∃ t, deliver bs s = .next t ∧ t.rxState = .body ∧ t.rxIdx.toNat = s.rxIdx.toNat + bs.length ∧ t.rxLen = s.rxLen ∧
      SameReceived s t := by
  induction bs generalizing s with
  | nil => exact ⟨s, rfl, h, rfl, rfl, rfl, rfl, rfl, rfl⟩
  | cons b bs ih =>
    rw [List.length_cons] at hi
    obtain ⟨hstate, hidx, hlen, hsame⟩ := rxDeliver_in_body (b := b) h (by omega)
    obtain ⟨t, ht, htstate, htidx, htlen, htsame⟩ := ih hstate (by rw [hidx, hlen]; omega)
    exact ⟨t, ht, htstate, by rw [htidx, hidx, List.length_cons]; omega, htlen.trans hlen, hsame.trans htsame⟩

/-- From `HUNT`, a frame without its last bytes is in its body. -/
theorem deliver_frame_in_body (s : State) (cmd a1 a0 l1 l0 : Byte) (h : s.rxState = .hunt) (body : List Byte)
    (hl : body.length ≤ (joinBytes l1 l0).toNat + 2) :
    ∃ t, deliver ([0xAA, cmd, a1, a0, l1, l0] ++ body) s = .next t ∧ t.rxState = .body ∧ t.rxIdx.toNat = body.length ∧
      t.rxLen = joinBytes l1 l0 ∧ SameReceived s t := by
  rw [deliver_append (deliver_fixed s cmd a1 a0 l1 l0 h)]
  obtain ⟨t, ht, hstate, hidx, hlen, hsame⟩ := deliver_in_body body (s := { s with
    rxState := .body, rxIdx := 0, rxCrc := crc16 [cmd, a1, a0, l1, l0], rxFix := ⟨cmd, a1, a0, l1, l0⟩,
    rxLen := joinBytes l1 l0, rxBuf := [] }) rfl (by simpa using hl)
  exact ⟨t, ht, hstate, by simpa using hidx, hlen, { hsame with }⟩

/-- From `HUNT`, a frame cut off before its last byte completes nothing. -/
theorem deliver_frame_prefix (s : State) (cmd a1 a0 l1 l0 : Byte) (h : s.rxState = .hunt) (body : List Byte) {k : Nat}
    (hk : k < 6 + ((joinBytes l1 l0).toNat + 3)) :
    ∃ t, deliver (([0xAA, cmd, a1, a0, l1, l0] ++ body).take k) s = .next t ∧ SameReceived s t := by
  obtain hlt | hle := Nat.lt_or_ge k 6
  · rw [List.take_append_of_le_length (Nat.le_of_lt hlt)]
    exact deliver_fixed_prefix s cmd a1 a0 l1 l0 h hlt
  · rw [List.take_append, List.take_of_length_le (l := [0xAA, cmd, a1, a0, l1, l0]) hle]
    obtain ⟨t, ht, -, -, -, hsame⟩ := deliver_frame_in_body s cmd a1 a0 l1 l0 h (body.take (k - 6))
      (by rw [List.length_take]; omega)
    exact ⟨t, ht, hsame⟩

/-- What a whole frame, received from `HUNT`, leaves in the last-decoded registers (R160). -/
def framePacket (c : Config) (cmd a1 a0 l1 l0 : Byte) (ds : List Byte) (c1 c0 t : Byte) : LastPacket :=
  { cmd := cmd
    args := joinBytes a1 a0
    len := joinBytes l1 l0
    data := ds.take c.dataCap
    rcrc := joinBytes c1 c0
    ccrc := crc16 ([cmd, a1, a0, l1, l0] ++ ds)
    trailer := t
    verify := joinBytes c1 c0 == crc16 ([cmd, a1, a0, l1, l0] ++ ds)
    trlOk := t == 0x55
    trunc := decide (c.dataCap < (joinBytes l1 l0).toNat) }

/-- From `HUNT`, a whole frame completes on its last byte. -/
theorem deliver_frame (s : State) (cmd a1 a0 l1 l0 c1 c0 t : Byte) (ds : List Byte) (h : s.rxState = .hunt)
    (hl : ds.length = (joinBytes l1 l0).toNat) :
    ∃ u, deliver (0xAA :: cmd :: a1 :: a0 :: l1 :: l0 :: (ds ++ [c1, c0, t])) s = .next u ∧
      u.last = some (framePacket s.cfg cmd a1 a0 l1 l0 ds c1 c0 t) ∧ u.rxState = .hunt ∧ u.rxDone = true ∧
      u.rxHave = true := by
  have hbody := deliver_fixed s cmd a1 a0 l1 l0 h
  have hdata := deliver_data ds [] { s with
    rxState := .body, rxIdx := 0, rxCrc := crc16 [cmd, a1, a0, l1, l0], rxFix := ⟨cmd, a1, a0, l1, l0⟩,
    rxLen := joinBytes l1 l0, rxBuf := [] } rfl rfl (by simp) (by simp [hl])
  have hrange : (BitVec.ofNat 17 (([] : List Byte).length + ds.length)).toNat = (joinBytes l1 l0).toNat := by
    have := (joinBytes l1 l0).isLt
    rw [BitVec.toNat_ofNat, List.length_nil, hl]
    omega
  refine ⟨_, (deliver_append hbody).trans ((deliver_append hdata).trans (deliver_tail c1 c0 t _ rfl hrange).2.2), ?_, rfl,
    rfl, rfl⟩
  rw [rxComplete_last, completedPacket, framePacket, crc16_append]
  rfl

/-- Settles O42: noise changes nothing, and the frame after it has the shape `decode` accepts. -/
theorem streamAgreesWithDecode : Obligations.StreamAgreesWithDecode := by
  intro s noise raw d h hnoise hhead hd
  obtain ⟨h0, cmd, a1, a0, l1, l0, c1, c0, t, ds, rfl, hl, rfl⟩ := decodePacket_some hd
  cases hhead
  have hskip := deliver_noise s h noise hnoise
  refine ⟨?completes, fun k hk => ?before⟩
  case completes =>
    obtain ⟨u, hu, hlast, hstate, hdone, -⟩ := deliver_frame s cmd a1 a0 l1 l0 c1 c0 t ds h hl
    exact ⟨u, (deliver_append hskip).trans hu, hstate, hdone, hlast⟩
  case before =>
    obtain hlt | hle := Nat.lt_or_ge k noise.length
    · rw [List.take_append_of_le_length (Nat.le_of_lt hlt),
        deliver_noise s h _ fun b hb => hnoise b (List.mem_of_mem_take hb)]
      exact ⟨s, rfl, rfl, rfl⟩
    · rw [List.take_append, List.take_of_length_le hle, deliver_append hskip]
      simp only [List.length_cons, List.length_append, List.length_nil, hl] at hk
      obtain ⟨u, hu, hsame⟩ := deliver_frame_prefix s cmd a1 a0 l1 l0 h (ds ++ [c1, c0, t]) (k := k - noise.length) (by omega)
      exact ⟨u, hu, hsame.last, hsame.rxDone⟩

/-- Settles O41: an encoded packet is a frame whose data fits. -/
theorem streamedRoundTrip : Obligations.StreamedRoundTrip := by
  intro s cmd args data frame h hcap hf
  obtain ⟨hl, rfl⟩ := encodePacket_some hf
  have hjoin := lengthField_toNat hl
  refine ⟨?completes, fun k hk => ?before⟩
  case completes =>
    obtain ⟨u, hu, hlast, hstate, hdone, hhave⟩ := deliver_frame s cmd (hiByte args) (loByte args) _ _ _ _ _ data h hjoin.symm
    exact ⟨u, _, hu, hlast, rfl, joinBytes_hiByte_loByte args, hjoin, List.take_of_length_le hcap,
      joinBytes_beq_self (crc16 (crcRegion cmd args data)), rfl, decide_eq_false (by omega), hstate, hdone, hhave⟩
  case before =>
    simp only [List.length_cons, List.length_append, List.length_nil] at hk
    obtain ⟨u, hu, hsame⟩ := deliver_frame_prefix s cmd (hiByte args) (loByte args) _ _ h _ (k := k) (by rw [hjoin]; omega)
    exact ⟨u, hu, hsame.last, hsame.rxDone⟩

/-- Settles O43: up to the last byte but one the frame is in its body, and the next byte completes it. -/
theorem frameTakesExactlyItsLength : Obligations.FrameTakesExactlyItsLength := by
  intro s cmd a1 a0 l1 l0 body h hle
  rw [← joinBytes_toNat] at hle ⊢
  obtain hlt | heq := Nat.lt_or_eq_of_le hle
  case inl =>
    obtain ⟨t, ht, hstate, -, -, hsame⟩ := deliver_frame_in_body s cmd a1 a0 l1 l0 h body (by omega)
    refine ⟨t, ht, ⟨fun hhunt => ?_, fun hfull => ?_⟩, fun _ => ⟨hstate, hsame.last⟩⟩
    · cases hstate.symm.trans hhunt
    · omega
  case inr =>
    obtain ⟨front, b, rfl⟩ := List.eq_nil_or_concat body |>.resolve_left (by rintro rfl; simp at heq)
    rw [List.concat_eq_append, List.length_append, List.length_singleton] at heq
    obtain ⟨t, ht, hstate, hidx, hlen, -⟩ := deliver_frame_in_body s cmd a1 a0 l1 l0 h front (by omega)
    have hlast : rxDeliver b t = rxComplete b t := by
      rw [rxDeliver_of_rxLen_le b hstate (by rw [hidx, hlen]; omega),
        rxTail_of_eq_rxLen_add_two b (by rw [hidx, hlen]; omega)]
    refine ⟨rxComplete b t, ?_, ⟨fun _ => ?_, fun _ => rfl⟩, fun hne => absurd rfl hne⟩
    · rw [List.concat_eq_append, ← List.append_assoc, deliver_append ht, deliver_cons, hlast]
      rfl
    · rw [List.concat_eq_append, List.length_append, List.length_singleton, heq]

/-- A flip in the command, the arguments or the data leaves the length field alone. -/
theorem modify_region (cmd a1 a0 l1 l0 : Byte) (ds : List Byte) (f : Byte → Byte) {j : Nat} (hj : j < 3 ∨ 5 ≤ j) :
    ∃ cmd' a1' a0' ds', ([cmd, a1, a0, l1, l0] ++ ds).modify j f = [cmd', a1', a0', l1, l0] ++ ds' ∧
      ds'.length = ds.length := by
  obtain hlt | hle := hj
  · interval_cases j
    · exact ⟨f cmd, a1, a0, ds, rfl, rfl⟩
    · exact ⟨cmd, f a1, a0, ds, rfl, rfl⟩
    · exact ⟨cmd, a1, f a0, ds, rfl, rfl⟩
  · obtain ⟨m, rfl⟩ := Nat.exists_eq_add_of_le' hle
    exact ⟨cmd, a1, a0, ds.modify m f, rfl, List.length_modify ..⟩

theorem modify_append_left {l : List Byte} (l' : List Byte) (f : Byte → Byte) {j : Nat} (hj : j < l.length) :
    (l ++ l').modify j f = l.modify j f ++ l' := by
  induction l generalizing j with
  | nil => exact absurd hj (Nat.not_lt_zero _)
  | cons x xs ih =>
    cases j with
    | zero => rfl
    | succ j =>
      rw [List.cons_append, List.modify_succ_cons, List.modify_succ_cons, List.cons_append,
        ih (Nat.lt_of_succ_lt_succ hj)]

/-- A frame whose region was changed, but not in its length field, completes with `verify` 0 if its CRC is another. -/
theorem deliver_changed_region (s : State) (cmd : Byte) (args : U16) (data : List Byte) (h : s.rxState = .hunt)
    (hl : data.length ≤ 65535) (f : Byte → Byte) {j : Nat} (hj : j < 3 ∨ 5 ≤ j) (c : U16) (t : Byte)
    (hne : crc16 ((crcRegion cmd args data).modify j f) ≠ c) :
    ∃ u p, deliver (0xAA :: ((crcRegion cmd args data).modify j f ++ [hiByte c, loByte c, t])) s = .next u ∧
      u.last = some p ∧ p.verify = false := by
  obtain ⟨cmd', a1', a0', ds', hmod, hlen⟩ := modify_region cmd (hiByte args) (loByte args)
    (hiByte (BitVec.ofNat 16 data.length)) (loByte (BitVec.ofNat 16 data.length)) data f hj
  have hregion : (crcRegion cmd args data).modify j f = _ := hmod
  rw [hregion] at hne ⊢
  obtain ⟨u, hu, hlast, -⟩ := deliver_frame s cmd' a1' a0' _ _ (hiByte c) (loByte c) t ds' h
    (hlen.trans (lengthField_toNat hl).symm)
  refine ⟨u, _, hu, hlast, ?_⟩
  exact beq_eq_false_iff_ne.2 (by rw [joinBytes_hiByte_loByte]; exact hne.symm)

/-- An encoded packet: the header, the CRC region and the tail (R80, R82). -/
theorem encodePacket_eq_region {cmd : Byte} {args : U16} {data frame : List Byte}
    (h : encodePacket cmd args data = some frame) :
    frame = 0xAA :: (crcRegion cmd args data ++
      [hiByte (crc16 (crcRegion cmd args data)), loByte (crc16 (crcRegion cmd args data)), 0x55]) :=
  (encodePacket_some h).2

theorem crcRegion_length (cmd : Byte) (args : U16) (data : List Byte) :
    (crcRegion cmd args data).length = 5 + data.length := by
  rw [crcRegion, List.length_append]
  rfl

/-- R167's packet, with bit 1 of its length's low byte flipped: the frame seen is shorter, and the CRC it finds in its data
is right (90_conflicts.md C3). -/
theorem deliver_flipped_length (s : State) (h : s.rxState = .hunt) :
    ∃ t p, deliver [0xAA, 0x42, 0, 0, 0, 1, 0x11, 0xD0, 0x71, 0xED, 0x68, 0x55] s = .next t ∧ t.last = some p ∧
      p.verify = true := by
  obtain ⟨u, hu, hlast, hstate, -⟩ := deliver_frame s 0x42 0 0 0 1 0xD0 0x71 0xED [0x11] h rfl
  have hrest : deliver [0x68, 0x55] u = .next u := deliver_noise u hstate _ (by decide)
  have hcrc : (joinBytes 0xD0 0x71 == crc16 ([0x42, 0, 0, 0, 1] ++ [0x11])) = true := by decide +kernel
  exact ⟨u, _, (deliver_append hu).trans hrest, hlast, hcrc⟩

/-- Settles O44: outside the length field a flip changes the region's CRC and not the frame's length. -/
theorem oneFlippedBitFailsVerify : Obligations.OneFlippedBitFailsVerify := by
  refine ⟨fun s cmd args data frame i k h hf hi hk => ?flip,
    [0xAA, 0x42, 0, 0, 0, 3, 0x11, 0xD0, 0x71, 0xED, 0x68, 0x55], by decide +kernel, fun s h => ?length⟩
  case flip =>
    obtain ⟨hl, -⟩ := encodePacket_some hf
    rw [encodePacket_eq_region hf]
    obtain ⟨j, rfl⟩ := Nat.exists_eq_add_of_le' (show 1 ≤ i by omega)
    have hj : j < (crcRegion cmd args data).length := by rw [crcRegion_length]; omega
    rw [List.modify_succ_cons, modify_append_left _ _ hj]
    exact deliver_changed_region s cmd args data h hl _ (by omega) _ _ (crc16_modify_ne _ hj hk)
  case length => exact deliver_flipped_length s h

end Sys2Proof.Machine
end

section
/-! The packet vocabulary (R190 to R198): each command's packet and the words that send it, the example packets, the chunks
of a file and the replies. -/

namespace Sys2Proof.Machine

theorem hiByte_eq_ofNat (x : U16) : hiByte x = BitVec.ofNat 8 (x.toNat / 256) := by
  rw [← hiByte_toNat, BitVec.ofNat_toNat, BitVec.setWidth_eq]

theorem loByte_eq_ofNat (x : U16) : loByte x = BitVec.ofNat 8 (x.toNat % 256) := by
  rw [← loByte_toNat, BitVec.ofNat_toNat, BitVec.setWidth_eq]

/-- The count of R194 as a number: the free value above 65536 chunks (log 19). -/
theorem countWord_toNat (s : State) (total : Nat) :
    (s.countWord total).toNat = if 65536 < total then (Config.freeWord s.draws).toNat
      else if 1 < total then total - 1 else total := by
  by_cases h : 65536 < total
  · rw [(countWord_of_gt s h).1, if_pos h]
  · rw [(countWord_of_le s (Nat.not_lt.1 h)).1, if_neg h, countValue, BitVec.toNat_ofNat]
    split <;> omega

theorem countPayload_eq (c : Config) (p : U16) :
    countPayload c p = if c.pkgCountOrder = .be then [BitVec.ofNat 8 (p.toNat / 256), BitVec.ofNat 8 (p.toNat % 256)]
      else [BitVec.ofNat 8 (p.toNat % 256), BitVec.ofNat 8 (p.toNat / 256)] := by
  rw [← hiByte_eq_ofNat, ← loByte_eq_ofNat, countPayload]
  cases c.pkgCountOrder <;> rfl

theorem handshakePayload_eq (c : Config) :
    handshakePayload c = "BOOTLOADER_V3".toList.map (fun ch => BitVec.ofNat 8 ch.toNat) ++
      (if c.hsPayloadNul then [0] else []) := rfl

/-- How far a command's request moves the counter of free values (log 19). -/
def drawsAfter (s : State) : Instr → Nat
  | .cmdUpdateDataPackages total => if 65536 < total.toNat then s.draws + 1 else s.draws
  | _ => s.draws

theorem add_countDraws (draws total : Nat) : draws + countDraws total = if 65536 < total then draws + 1 else draws := by
  rw [countDraws]
  split <;> split <;> omega

/-- A command's request sends the command's packet (R190 to R195). -/
theorem exec_of_commandPacket {s : State} {i : Instr} {cmd : Byte} {args : U16} {data : List Byte}
    (h : CommandPacket s i cmd args data) :
    exec i s = .next (State.sendPacket cmd args data { s with draws := drawsAfter s i }) := by
  cases i with
  | cmdCheckModelType model => obtain ⟨rfl, rfl, rfl⟩ := h; rfl
  | cmdUpdate seq chunk =>
    obtain ⟨rfl, rfl, rfl⟩ := h
    rw [← chunkPayload_eq]
    rfl
  | cmdUpdateDataPackages total =>
    obtain ⟨rfl, rfl, p, hp, rfl⟩ := h
    rw [← countWord_toNat] at hp
    rw [hp, ← countPayload_eq, drawsAfter, ← add_countDraws]
    rfl
  | cmdHandshake =>
    obtain ⟨rfl, rfl, rfl⟩ := h
    rw [← handshakePayload_eq]
    rfl
  | cmdIntoBoot => obtain ⟨rfl, rfl, rfl⟩ := h; rfl
  | cmdUpdateEnd => obtain ⟨rfl, rfl, rfl⟩ := h; rfl
  | _ => exact h.elim

/-- A packet's words on the host port (R85, R91). -/
theorem sendPacket_eq (cmd : Byte) (args : U16) (data : List Byte) (s : State) :
    s.sendPacket cmd args data = { s with
      hostPort := .word (wordS 0x10 cmd args (BitVec.ofNat 16 data.length)) ::
        (data.map (fun b => HostItem.word (wordB 0x11 b)) ++ s.hostPort) } := by
  rw [State.sendPacket, sendInstrs, List.map_cons, List.map_map]
  rfl

/-- Settles O51: the request sends its packet, whose words are those of `SEND`. -/
theorem commandRequestsIssueTheirPacket : Obligations.CommandRequestsIssueTheirPacket := by
  intro s i cmd args data _ h
  rw [exec_of_commandPacket h, sendPacket_eq]
  cases i <;> rfl

/-- Every command has a packet of at most 1024 bytes of data. -/
theorem exists_commandPacket (s : State) {i : Instr} (hwf : i.wf = true) (hi : i.isCommand = true) :
    ∃ cmd args data, CommandPacket s i cmd args data ∧ data.length ≤ 1024 := by
  cases i with
  | cmdCheckModelType model =>
    have hlen : model.length = 32 := by simpa [Instr.wf] using hwf
    exact ⟨_, _, _, ⟨rfl, rfl, rfl⟩, by omega⟩
  | cmdUpdate seq chunk =>
    refine ⟨_, _, _, ⟨rfl, rfl, rfl⟩, ?_⟩
    rw [← chunkPayload_eq, chunkPayload_length]
  | cmdUpdateDataPackages total =>
    refine ⟨_, _, _, ⟨rfl, rfl, _, rfl, rfl⟩, ?_⟩
    split <;> simp
  | cmdHandshake =>
    refine ⟨_, _, _, ⟨rfl, rfl, rfl⟩, ?_⟩
    split <;> simp
  | cmdIntoBoot => exact ⟨_, _, _, ⟨rfl, rfl, rfl⟩, Nat.zero_le _⟩
  | cmdUpdateEnd => exact ⟨_, _, _, ⟨rfl, rfl, rfl⟩, Nat.zero_le _⟩
  | _ => cases hi

/-- Settles O52: the packet's data is short enough to encode. -/
theorem everyCommandHasAPacket : Obligations.EveryCommandHasAPacket := by
  intro s i hwf hi
  obtain ⟨cmd, args, data, hpacket, hlen⟩ := exists_commandPacket s hwf hi
  exact ⟨cmd, args, data, _, hpacket, if_pos (by omega)⟩

/-- R195's packet of zeros: the CRC is that of `crc16_zero_chunk`. -/
theorem encodePacket_zero_chunk :
    encodePacket 0x03 0 (List.replicate 1024 0) =
      some ([0xAA, 0x03, 0, 0, 4, 0] ++ List.replicate 1024 0 ++ [0x99, 0xC2, 0x55]) := by
  have hregion : crcRegion 0x03 0 (List.replicate 1024 0) = [3, 0, 0, 4, 0] ++ List.replicate 1024 0 := by
    rw [crcRegion, List.length_replicate]
    rfl
  rw [encodePacket, if_pos (by rw [List.length_replicate]; omega), hregion, crc16_zero_chunk]
  rfl

/-- Settles O54: closed packets, evaluated; the 1024 zeros by `crc16_zero_chunk`. -/
theorem encodedExamplesOfTheSpec : Obligations.EncodedExamplesOfTheSpec := by
  refine ⟨?_, ?_, ?_, ?_, ?_, ?_, encodePacket_zero_chunk, ?_⟩ <;> decide +kernel

/-- A chunk of fewer than 1024 bytes is padded to 1024, a longer one is cut (R195, R196). -/
theorem chunkPayload_of_le {c : List Byte} (h : c.length ≤ 1024) :
    chunkPayload c = c ++ List.replicate (1024 - c.length) 0 := by
  rw [chunkPayload_eq, List.take_of_length_le h]

/-- The first `n` chunks, all full, are the file's first `1024 * n` bytes. -/
theorem flatten_full_chunks (file : List Byte) (n : Nat) (h : 1024 * n ≤ file.length) :
    ((List.range n).map (fun k => chunkPayload (fileChunk file k))).flatten = file.take (1024 * n) := by
  induction n with
  | zero => rfl
  | succ n ih =>
    have hlen : (fileChunk file n).length = 1024 := by
      rw [fileChunk, List.length_take, List.length_drop]
      omega
    have hfull : chunkPayload (fileChunk file n) = fileChunk file n := by
      rw [chunkPayload_of_le hlen.le, hlen, Nat.sub_self, List.replicate_zero, List.append_nil]
    rw [List.range_succ, List.map_append, List.flatten_append, ih (by omega), List.map_singleton, List.flatten_singleton,
      hfull, fileChunk, ← List.take_add, Nat.mul_succ]

/-- Settles O55: the full chunks are the file's bytes, and the last, if there is another, is the rest and the padding. -/
theorem chunksReassembleTheFile : Obligations.ChunksReassembleTheFile := by
  intro file
  refine ⟨fun k => chunkPayload_length _, ?_⟩
  have hfull := flatten_full_chunks file (file.length / 1024) (by omega)
  by_cases hrest : file.length % 1024 = 0
  case pos =>
    have hcount : totalChunks file.length = file.length / 1024 := by rw [totalChunks]; omega
    refine ⟨0, by omega, ?_⟩
    rw [hcount, hfull, List.take_of_length_le (by omega), List.replicate_zero, List.append_nil]
  case neg =>
    have hcount : totalChunks file.length = file.length / 1024 + 1 := by rw [totalChunks]; omega
    have hlast : fileChunk file (file.length / 1024) = file.drop (1024 * (file.length / 1024)) :=
      List.take_of_length_le (by rw [List.length_drop]; omega)
    have hlen : (fileChunk file (file.length / 1024)).length = file.length % 1024 := by
      rw [hlast, List.length_drop]
      omega
    refine ⟨1024 - file.length % 1024, by omega, ?_⟩
    rw [hcount, List.range_succ, List.map_append, List.flatten_append, hfull, List.map_singleton, List.flatten_singleton,
      chunkPayload_of_le (by omega), hlen, hlast, ← List.append_assoc, List.take_append_drop]

/-- Settles O56: one arm per value; the seven values differ. -/
theorem repliesAreReadFromTheArguments : Obligations.RepliesAreReadFromTheArguments := by
  intro args
  have hval {x : U16} : args = x ↔ args.toNat = x.toNat := BitVec.toNat_inj.symm
  unfold replyOf
  split
  case h_8 hack h1 h2 h3 h4 h5 h6 =>
    simp only [hval, reduceCtorEq, false_iff, false_implies, implies_true, and_true]
    exact ⟨hack, h1, h2, h3, h4, h5, h6⟩
  all_goals
    next h => simp [hval, h, ReplyError.fatal]

end Sys2Proof.Machine
end

section
/-! A packet's words through the port, in every interleaving (R135): what has been emitted, what is still to be performed and
the serializer's registers stay in step (`Sending`), whatever the other agents and operations do in between. -/

namespace Sys2Proof.Machine

/-- The bytes of a packet on the wire (R80). -/
def frameBytes (cmd : Byte) (args : U16) (data : List Byte) : List Byte :=
  Config.header :: (crcRegion cmd args data ++ frameTail (crc16 (crcRegion cmd args data)))

theorem encodePacket_eq_frameBytes {cmd : Byte} {args : U16} {data frame : List Byte}
    (h : encodePacket cmd args data = some frame) : data.length ≤ 65535 ∧ frame = frameBytes cmd args data :=
  ⟨(encodePacket_some h).1, encodePacket_eq_region h⟩

theorem crcRegion_of_split {cmd : Byte} {args : U16} {data pre suf : List Byte} (h : data = pre ++ suf) :
    crcRegion cmd args data = fixedFields cmd args (BitVec.ofNat 16 data.length) ++ pre ++ suf := by
  rw [crcRegion, List.append_assoc, ← h]

/-- The operation that is held. -/
def HeldOp.instr : HeldOp → Instr
  | .txStart cmd args len => .txStart cmd args len
  | .txData b => .txData b

/-- The packet's operations in `ops` are still to be performed, and `s` is where the others have led from `base`. -/
inductive Sending (base : List Byte) (cmd : Byte) (args : U16) (data : List Byte) (ops : List Instr) (s : State) : Prop where
  /-- nothing has been performed yet -/
  | unsent (hops : ops = sendInstrs cmd args data) (hx : s.txState = .idle) (he : s.emitted = base)
  /-- the header, the fixed fields and the data bytes `pre` have been emitted; the frame is open -/
  | started (pre suf : List Byte) (hdata : data = pre ++ suf) (hne : suf ≠ []) (hops : ops = suf.map .txData)
    (hx : s.txState = .data) (hrem : s.txRem.toNat = suf.length)
    (hcrc : s.txCrc = crc16 (fixedFields cmd args (BitVec.ofNat 16 data.length) ++ pre))
    (he : s.emitted = base ++ Config.header :: (fixedFields cmd args (BitVec.ofNat 16 data.length) ++ pre))
  /-- the packet has been emitted -/
  | sent (hops : ops = []) (he : s.emitted = base ++ frameBytes cmd args data)

section
variable {base data : List Byte} {cmd : Byte} {args : U16} {ops : List Instr} {s t : State}

/-- What is emitted lies between the start and the whole packet. -/
theorem Sending.emitted_prefix (h : Sending base cmd args data ops s) :
    base <+: s.emitted ∧ s.emitted <+: base ++ frameBytes cmd args data := by
  cases h with
  | unsent _ _ he => rw [he]; exact ⟨List.prefix_rfl, List.prefix_append _ _⟩
  | sent _ he => rw [he]; exact ⟨List.prefix_append _ _, List.prefix_rfl⟩
  | started pre suf hdata _ _ _ _ _ he =>
    rw [he, frameBytes, crcRegion_of_split hdata, List.append_assoc _ suf]
    exact ⟨List.prefix_append _ _,
      (List.prefix_append_right_inj _).2 ((List.prefix_cons_inj _).2 (List.prefix_append _ _))⟩

theorem Sending.emitted_of_nil (h : Sending base cmd args data [] s) : s.emitted = base ++ frameBytes cmd args data := by
  cases h with
  | unsent hops => cases hops
  | started _ suf _ hne hops => exact absurd (List.map_eq_nil_iff.1 hops.symm) hne
  | sent _ he => exact he

/-- The next operation finds the serializer in the state its check asks for. -/
theorem Sending.head (h : Sending base cmd args data (i :: ops) s) :
    (s.txState = .idle ∧ ∃ c a l, i = .txStart c a l) ∨ (s.txState = .data ∧ ∃ b, i = .txData b) := by
  cases h with
  | unsent hops hx => exact .inl ⟨hx, _, _, _, (List.cons.inj hops).1⟩
  | started _ suf _ hne hops hx =>
    cases suf with
    | nil => exact absurd rfl hne
    | cons b suf => exact .inr ⟨hx, b, (List.cons.inj hops).1⟩
  | sent hops => cases hops

/-- Only these registers matter. -/
theorem Sending.congr (h : Sending base cmd args data ops s) (hx : t.txState = s.txState) (hrem : t.txRem = s.txRem)
    (hcrc : t.txCrc = s.txCrc) (he : t.emitted = s.emitted) : Sending base cmd args data ops t := by
  cases h with
  | unsent hops hx' he' => exact .unsent hops (hx.trans hx') (he.trans he')
  | started pre suf hdata hne hops hx' hrem' hcrc' he' =>
    exact .started pre suf hdata hne hops (hx.trans hx') (hrem ▸ hrem') (hcrc.trans hcrc') (he.trans he')
  | sent hops he' => exact .sent hops (he.trans he')

theorem emitted_append {q : List Byte} (hw : t.txWire = s.txWire) (hq : t.txQ = s.txQ ++ q) :
    t.emitted = s.emitted ++ q := by
  rw [State.emitted, State.emitted, hw, hq, List.append_assoc]

/-- `TX_START` of the packet, past its check: it holds and stays to be performed, or it has been performed. -/
theorem Sending.txStartOrHold (hl : data.length ≤ 65535) {c : Byte} {a l : U16}
    (h : Sending base cmd args data (.txStart c a l :: ops) s) :
    ((txStartOrHold c a l s).held = some (.txStart c a l) ∧
      Sending base cmd args data (.txStart c a l :: ops) (txStartOrHold c a l s)) ∨
    ((txStartOrHold c a l s).held = s.held ∧ Sending base cmd args data ops (txStartOrHold c a l s)) := by
  have hlen := ofNat_length_toNat hl
  obtain ⟨hidle, -⟩ | ⟨-, b, hb⟩ := h.head
  case inr => cases hb
  cases h with
  | started _ _ _ _ _ hx => cases hidle.symm.trans hx
  | sent hops => cases hops
  | unsent hops hx he =>
    obtain ⟨hi, rfl⟩ := List.cons.inj hops
    cases hi
    obtain ⟨-, heq⟩ | ⟨hzero, -, heq⟩ | ⟨hne, -, heq⟩ := txStartOrHold_cases cmd args (BitVec.ofNat 16 data.length) s <;>
      rw [heq]
    · exact .inl ⟨rfl, .unsent rfl hx he⟩
    · have hnil : data = [] := by
        rw [← List.length_eq_zero_iff, ← hlen, hzero]
        rfl
      subst hnil
      refine .inr ⟨rfl, .sent rfl ?_⟩
      refine Eq.trans (emitted_append (s := s) rfl rfl) ?_
      rw [he]
      rfl
    · have hnonempty : data ≠ [] := fun h0 => hne (by rw [h0]; rfl)
      refine .inr ⟨rfl, .started [] data rfl hnonempty rfl rfl hlen (by rw [List.append_nil]) ?_⟩
      refine Eq.trans (emitted_append (s := s) rfl rfl) ?_
      rw [he, List.append_nil]

/-- `TX_DATA` of the packet, past its check: likewise. -/
theorem Sending.txDataOrHold {b : Byte} (h : Sending base cmd args data (.txData b :: ops) s) :
    ((txDataOrHold b s).held = some (.txData b) ∧
      Sending base cmd args data (.txData b :: ops) (txDataOrHold b s)) ∨
    ((txDataOrHold b s).held = s.held ∧ Sending base cmd args data ops (txDataOrHold b s)) := by
  obtain ⟨-, _, _, _, hb⟩ | ⟨hdata, -⟩ := h.head
  case inl => cases hb
  cases h with
  | unsent _ hx => cases hdata.symm.trans hx
  | sent hops => cases hops
  | started pre suf hsplit hne hops hx hrem hcrc he =>
    cases suf with
    | nil => exact absurd rfl hne
    | cons b' suf =>
      obtain ⟨hi, rfl⟩ := List.cons.inj hops
      cases hi
      have hregion := crcRegion_of_split (cmd := cmd) (args := args) hsplit
      have hsplit' : data = (pre ++ [b]) ++ suf := by rw [hsplit, List.append_assoc, List.singleton_append]
      have hnext : crcStep s.txCrc b =
          crc16 (fixedFields cmd args (BitVec.ofNat 16 data.length) ++ (pre ++ [b])) := by
        rw [hcrc, ← List.append_assoc, crc16_append _ [b]]
        rfl
      obtain ⟨-, heq⟩ | ⟨hone, -, heq⟩ | ⟨hmore, -, heq⟩ := txDataOrHold_cases b s <;> rw [heq]
      · exact .inl ⟨rfl, .started pre (b :: suf) hsplit hne rfl hx hrem hcrc he⟩
      · have hnil : suf = [] := by
          rw [hone] at hrem
          exact List.length_eq_zero_iff.1 (Nat.succ_inj.1 hrem).symm
        subst hnil
        refine .inr ⟨rfl, .sent rfl ?_⟩
        refine Eq.trans (emitted_append (s := s) rfl rfl) ?_
        rw [he, frameBytes, hregion, hnext]
        simp
      · have hsuf : suf.length ≠ 0 := fun h0 => hmore (BitVec.eq_of_toNat_eq (by rw [hrem, List.length_cons, h0]; rfl))
        have hrem' : (s.txRem - 1).toNat = suf.length := by
          rw [List.length_cons] at hrem
          bv_omega
        refine .inr ⟨rfl, .started (pre ++ [b]) suf hsplit' (fun h0 => hsuf (h0 ▸ rfl)) rfl hx hrem' hnext ?_⟩
        refine Eq.trans (emitted_append (s := s) rfl rfl) ?_
        rw [he]
        simp

end

/-- `s` is sending the packet: `is` is what the port presents, none of it a request. -/
structure SendingFrom (base : List Byte) (cmd : Byte) (args : U16) (data : List Byte) (is : List Instr) (s : State) :
    Prop where
  hostPort : s.hostPort = is.map encode
  no_command : ∀ i ∈ is, i.isCommand = false
  sending : Sending base cmd args data ((s.held.map HeldOp.instr).toList ++ is.filter Instr.isTx) s
  no_reset : .reset ∉ s.schedule

section
variable {base data : List Byte} {cmd : Byte} {args : U16} {is : List Instr} {s t : State}

theorem wf_of_not_isCommand {i : Instr} (h : i.isCommand = false) : i.wf = true := by
  cases i with
  | cmdCheckModelType => cases h
  | _ => rfl

/-- A step that leaves the serializer and the port alone. -/
theorem SendingFrom.congr (h : SendingFrom base cmd args data is s) (hp : t.hostPort = s.hostPort)
    (hh : t.held = s.held) (hx : t.txState = s.txState) (hrem : t.txRem = s.txRem) (hcrc : t.txCrc = s.txCrc)
    (he : t.emitted = s.emitted) (hs : t.schedule ⊆ s.schedule) : SendingFrom base cmd args data is t where
  hostPort := hp.trans h.hostPort
  no_command := h.no_command
  sending := hh ▸ h.sending.congr hx hrem hcrc he
  no_reset hmem := h.no_reset (hs hmem)

theorem resumeHeld_schedule (op : HeldOp) (s : State) : (resumeHeld op s).schedule = s.schedule := by
  cases op with
  | txStart cmd args len => exact txStartOrHold_schedule ..
  | txData b => exact txDataOrHold_schedule ..

/-- The held operation is the packet's next one. -/
theorem SendingFrom.resumeHeld (hl : data.length ≤ 65535) {op : HeldOp} (h : SendingFrom base cmd args data is s)
    (hh : s.held = some op) : SendingFrom base cmd args data is (resumeHeld op s) where
  hostPort := (resumeHeld_hostPort op s).trans h.hostPort
  no_command := h.no_command
  no_reset := resumeHeld_schedule op s ▸ h.no_reset
  sending := by
    have hsend := h.sending
    rw [hh] at hsend
    have hfree : Sending base cmd args data (op.instr :: is.filter Instr.isTx) { s with held := none } :=
      hsend.congr rfl rfl rfl rfl
    cases op with
    | txStart c a l =>
      obtain ⟨hheld, h'⟩ | ⟨hheld, h'⟩ := hfree.txStartOrHold hl <;> rw [resumeHeld_txStart, hheld] <;> exact h'
    | txData b =>
      obtain ⟨hheld, h'⟩ | ⟨hheld, h'⟩ := hfree.txDataOrHold <;> rw [resumeHeld_txData, hheld] <;> exact h'

theorem exec_schedule {i : Instr} (h : exec i s = .next t) : t.schedule = s.schedule := by
  cases exec_cases h with
  | start => exact txStartOrHold_schedule ..
  | data => exact txDataOrHold_schedule ..
  | rxByte => exact rxDeliver_schedule ..
  | startBusy | dataIdle => rw [raise_eq]
  | nop | crcInit | crcByte | txAbort | rxAbort | rxAck | errClr | command => rfl

/-- An operation word of the other units: CRC, RX or control. -/
theorem SendingFrom.exec_other {i : Instr} (h : SendingFrom base cmd args data is s) (hi : i.isTx = false)
    (hc : i.isCommand = false) (ht : exec i s = .next t) : SendingFrom base cmd args data is t := by
  cases exec_cases ht with
  | startBusy | start | dataIdle | data | txAbort => cases hi
  | command _ _ _ _ _ hc' => cases hc.symm.trans hc'
  | rxByte b =>
    exact h.congr (rxDeliver_hostPort ..) (rxDeliver_held ..) (rxDeliver_txState ..) (rxDeliver_txRem ..)
      (rxDeliver_txCrc ..) (rxDeliver_emitted ..) (rxDeliver_schedule b s ▸ List.Subset.refl _)
  | nop | crcInit | crcByte | rxAbort | rxAck | errClr => exact h.congr rfl rfl rfl rfl rfl rfl (List.Subset.refl _)

/-- The packet's next operation, taken from a free port. -/
theorem exec_sending (hl : data.length ≤ 65535) {i : Instr} {ops : List Instr}
    (h : Sending base cmd args data (i :: ops) s) (hfree : s.held = none) (ht : exec i s = .next t) :
    Sending base cmd args data ((t.held.map HeldOp.instr).toList ++ ops) t ∧ t.hostPort = s.hostPort := by
  obtain ⟨hx, c, a, l, rfl⟩ | ⟨hx, b, rfl⟩ := h.head
  · cases (exec_txStart_of_idle c a l hx).symm.trans ht
    refine ⟨?_, txStartOrHold_hostPort ..⟩
    obtain ⟨hheld, h'⟩ | ⟨hheld, h'⟩ := h.txStartOrHold hl
    · rw [hheld]; exact h'
    · rw [hheld, hfree]; exact h'
  · cases (exec_txData_of_data b hx).symm.trans ht
    refine ⟨?_, txDataOrHold_hostPort ..⟩
    obtain ⟨hheld, h'⟩ | ⟨hheld, h'⟩ := h.txDataOrHold
    · rw [hheld]; exact h'
    · rw [hheld, hfree]; exact h'

/-- The host's turn on a free port. -/
theorem SendingFrom.take {i : Instr} {sched : List Turn} (hl : data.length ≤ 65535)
    (h : SendingFrom base cmd args data (i :: is) s) (hfree : s.held = none) (hs : s.schedule = .host :: sched) :
    ∃ t, step s = .next t ∧ SendingFrom base cmd args data is t := by
  have hc := h.no_command i List.mem_cons_self
  have hrest : ∀ j ∈ is, j.isCommand = false := fun j hj => h.no_command j (List.mem_cons_of_mem i hj)
  have hreset : .reset ∉ sched := fun hmem => h.no_reset (hs ▸ List.mem_cons_of_mem _ hmem)
  have hsend := h.sending
  obtain ⟨t, ht⟩ := exec_next i { s with schedule := sched, hostPort := is.map encode }
  refine ⟨t, (step_eq_exec hs hfree h.hostPort (decode_encode (wf_of_not_isCommand hc))).trans ht, ?_⟩
  rw [hfree, Option.map_none, Option.toList_none, List.nil_append] at hsend
  cases hi : i.isTx with
  | false =>
    rw [List.filter_cons_of_neg (by simp [hi])] at hsend
    have hbefore : SendingFrom base cmd args data is { s with schedule := sched, hostPort := is.map encode } :=
      { hostPort := rfl, no_command := hrest, no_reset := hreset
        sending := by rw [hfree]; exact hsend.congr rfl rfl rfl rfl }
    exact hbefore.exec_other hi hc ht
  | true =>
    rw [List.filter_cons_of_pos hi] at hsend
    obtain ⟨hsend', hport⟩ := exec_sending (s := { s with schedule := sched, hostPort := is.map encode }) hl
      (hsend.congr rfl rfl rfl rfl) hfree ht
    exact { hostPort := hport, no_command := hrest, sending := hsend', no_reset := exec_schedule ht ▸ hreset }

/-- Each turn but a reset keeps the packet's sending in step. -/
theorem SendingFrom.step (hl : data.length ≤ 65535) (h : SendingFrom base cmd args data is s) :
    ∃ t is', step s = .next t ∧ SendingFrom base cmd args data is' t := by
  cases hs : s.schedule with
  | nil => exact ⟨s, is, step_of_schedule_nil hs, h⟩
  | cons turn sched =>
    have hturn : SendingFrom base cmd args data is { s with schedule := sched } :=
      h.congr rfl rfl rfl rfl rfl rfl (hs ▸ List.subset_cons_self turn sched)
    cases turn with
    | reset => exact absurd (hs ▸ List.mem_cons_self) h.no_reset
    | lineOut =>
      refine ⟨_, is, step_eq_txShift hs, hturn.congr ?_ ?_ ?_ ?_ ?_ (txShift_emitted _) ?_⟩ <;> rw [txShift_eq]
      exact List.Subset.refl _
    | lineIn =>
      cases hline : s.lineIn with
      | nil => exact ⟨_, is, step_of_lineIn_nil hs hline, hturn⟩
      | cons b rest =>
        have hbyte : SendingFrom base cmd args data is { s with schedule := sched, lineIn := rest } :=
          hturn.congr rfl rfl rfl rfl rfl rfl (List.Subset.refl _)
        exact ⟨_, is, step_eq_exec_rxByte hs hline, hbyte.exec_other (i := .rxByte b) rfl rfl rfl⟩
    | host =>
      cases hh : s.held with
      | some op => exact ⟨_, is, step_eq_resumeHeld hs hh, hturn.resumeHeld hl hh⟩
      | none =>
        cases is with
        | nil => exact ⟨_, [], step_of_hostPort_nil hs hh h.hostPort, hturn⟩
        | cons i is =>
          obtain ⟨t, ht, h'⟩ := h.take hl hh hs
          exact ⟨t, is, ht, h'⟩

end

/-- A predicate that every step keeps, in a machine that it lets step, holds after any number of steps. -/
theorem core_run_induction {P : State → Prop} (hstep : ∀ s, P s → ∃ t, step s = .next t ∧ P t) (n : Nat) {s : State}
    (h : P s) : ∃ t, Host.Core.run core n s = .next t ∧ P t := by
  induction n generalizing s with
  | zero => exact ⟨s, rfl, h⟩
  | succ n ih =>
    obtain ⟨u, hu, hP⟩ := hstep s h
    obtain ⟨t, ht, hP'⟩ := ih hP
    exact ⟨t, (core_run_succ hu).trans ht, hP'⟩

/-- How far a packet has been emitted, with a free port and nothing held meaning all of it. -/
theorem SendingFrom.emitted {base data : List Byte} {cmd : Byte} {args : U16} {is : List Instr} {s : State}
    (h : SendingFrom base cmd args data is s) :
    base <+: s.emitted ∧ s.emitted <+: base ++ frameBytes cmd args data ∧
      (s.hostPort = [] → s.held = none → s.emitted = base ++ frameBytes cmd args data) := by
  obtain ⟨hbase, hframe⟩ := h.sending.emitted_prefix
  refine ⟨hbase, hframe, fun hp hh => ?_⟩
  have hnil : is = [] := List.map_eq_nil_iff.1 (h.hostPort.symm.trans hp)
  have hsend := h.sending
  rw [hh, hnil] at hsend
  exact hsend.emitted_of_nil

/-- Settles O29: the words are all to be sent at the start, and every step keeps the sending in step. -/
theorem serializerEmitsTheEncodedPacket : Obligations.SerializerEmitsTheEncodedPacket := by
  intro s is cmd args data frame n hx hh hp hc hops hf hreset
  obtain ⟨hl, rfl⟩ := encodePacket_eq_frameBytes hf
  have hstart : SendingFrom s.emitted cmd args data is s :=
    { hostPort := hp, no_command := hc, no_reset := hreset
      sending := by rw [hh]; exact .unsent hops hx rfl }
  obtain ⟨t, ht, is', h⟩ := core_run_induction (P := fun t => ∃ is', SendingFrom s.emitted cmd args data is' t)
    (fun u ⟨_, hu⟩ => by
      obtain ⟨t, is', ht, h'⟩ := hu.step hl
      exact ⟨t, ht, is', h'⟩) n ⟨is, hstart⟩
  exact ⟨t, ht, h.emitted⟩

/-- The request stands on the port and nothing has been emitted yet. -/
structure Requested (base : List Byte) (i : Instr) (cmd : Byte) (args : U16) (data : List Byte) (s : State) : Prop where
  hostPort : s.hostPort = [encode i]
  packet : CommandPacket s i cmd args data
  held : s.held = none
  txState : s.txState = .idle
  emitted : s.emitted = base
  no_reset : .reset ∉ s.schedule

/-- A command's packet depends on the parameters and the next free value only. -/
theorem commandPacket_congr {s t : State} {i : Instr} {cmd : Byte} {args : U16} {data : List Byte} (hc : t.cfg = s.cfg)
    (hd : t.draws = s.draws) (h : CommandPacket s i cmd args data) : CommandPacket t i cmd args data := by
  cases i with
  | cmdCheckModelType | cmdUpdate | cmdUpdateDataPackages | cmdHandshake | cmdIntoBoot | cmdUpdateEnd =>
    simp only [CommandPacket, hc, hd] at h ⊢
    exact h
  | _ => exact h.elim

section
variable {base data : List Byte} {i : Instr} {cmd : Byte} {args : U16} {s t : State}

theorem Requested.congr (h : Requested base i cmd args data s) (hp : t.hostPort = s.hostPort) (hc : t.cfg = s.cfg)
    (hd : t.draws = s.draws) (hh : t.held = s.held) (hx : t.txState = s.txState) (he : t.emitted = s.emitted)
    (hs : t.schedule ⊆ s.schedule) : Requested base i cmd args data t where
  hostPort := hp.trans h.hostPort
  packet := commandPacket_congr hc hd h.packet
  held := hh.trans h.held
  txState := hx.trans h.txState
  emitted := he.trans h.emitted
  no_reset hmem := h.no_reset (hs hmem)

/-- The host's turn takes the request and puts the packet's words on the port. -/
theorem Requested.take {sched : List Turn} (hwf : i.wf = true) (h : Requested base i cmd args data s)
    (hs : s.schedule = .host :: sched) :
    ∃ t, step s = .next t ∧ SendingFrom base cmd args data (sendInstrs cmd args data) t := by
  have hpacket : CommandPacket { s with schedule := sched, hostPort := [] } i cmd args data :=
    commandPacket_congr rfl rfl h.packet
  refine ⟨_, (step_eq_exec hs h.held h.hostPort (decode_encode hwf)).trans (exec_of_commandPacket hpacket), ?_⟩
  have htx : (sendInstrs cmd args data).filter Instr.isTx = sendInstrs cmd args data :=
    List.filter_eq_self.2 fun j hj => by
      obtain rfl | ⟨b, -, rfl⟩ := (List.mem_cons.1 hj).imp_right List.mem_map.1 <;> rfl
  exact
    { hostPort := List.append_nil _
      no_command := fun j hj => by
        obtain rfl | ⟨b, -, rfl⟩ := (List.mem_cons.1 hj).imp_right List.mem_map.1 <;> rfl
      sending := by
        rw [htx]
        show Sending base cmd args data ((s.held.map HeldOp.instr).toList ++ _) _
        rw [h.held]
        exact .unsent rfl h.txState h.emitted
      no_reset := fun hmem => h.no_reset (hs ▸ List.mem_cons_of_mem _ hmem) }

/-- Each turn but a reset leaves the request waiting or takes it. -/
theorem Requested.step (hwf : i.wf = true) (h : Requested base i cmd args data s) :
    ∃ t, step s = .next t ∧ (Requested base i cmd args data t ∨ ∃ is, SendingFrom base cmd args data is t) := by
  cases hs : s.schedule with
  | nil => exact ⟨s, step_of_schedule_nil hs, .inl h⟩
  | cons turn sched =>
    have hturn : Requested base i cmd args data { s with schedule := sched } :=
      h.congr rfl rfl rfl rfl rfl rfl (hs ▸ List.subset_cons_self turn sched)
    cases turn with
    | reset => exact absurd (hs ▸ List.mem_cons_self) h.no_reset
    | lineOut =>
      refine ⟨_, step_eq_txShift hs, .inl (hturn.congr ?_ ?_ ?_ ?_ ?_ (txShift_emitted _) ?_)⟩ <;> rw [txShift_eq]
      exact List.Subset.refl _
    | lineIn =>
      cases hline : s.lineIn with
      | nil => exact ⟨_, step_of_lineIn_nil hs hline, .inl hturn⟩
      | cons b rest =>
        have hbyte : Requested base i cmd args data { s with schedule := sched, lineIn := rest } :=
          hturn.congr rfl rfl rfl rfl rfl rfl (List.Subset.refl _)
        exact ⟨_, step_eq_exec_rxByte hs hline, .inl (hbyte.congr (rxDeliver_hostPort ..) (rxDeliver_cfg ..)
          (rxDeliver_draws ..) (rxDeliver_held ..) (rxDeliver_txState ..) (rxDeliver_emitted ..)
          (rxDeliver_schedule b { s with schedule := sched, lineIn := rest } ▸ List.Subset.refl _))⟩
    | host =>
      obtain ⟨t, ht, h'⟩ := h.take hwf hs
      exact ⟨t, ht, .inr ⟨_, h'⟩⟩

/-- While the request waits nothing has been emitted, and the port is not empty. -/
theorem Requested.emitted_prefix (h : Requested base i cmd args data s) :
    base <+: s.emitted ∧ s.emitted <+: base ++ frameBytes cmd args data ∧
      (s.hostPort = [] → s.held = none → s.emitted = base ++ frameBytes cmd args data) := by
  rw [h.emitted, h.hostPort]
  exact ⟨List.prefix_rfl, List.prefix_append _ _, nofun⟩

end

/-- Settles O53: the request waits, then its packet's words are sent as `SEND`'s are. -/
theorem commandRequestsEmitTheirPacket : Obligations.CommandRequestsEmitTheirPacket := by
  intro s i cmd args data frame n hwf hpacket hf hx hh hp hreset
  obtain ⟨hl, rfl⟩ := encodePacket_eq_frameBytes hf
  have hstart : Requested s.emitted i cmd args data s :=
    { hostPort := hp, packet := hpacket, held := hh, txState := hx, emitted := rfl, no_reset := hreset }
  obtain ⟨t, ht, h | ⟨is, h⟩⟩ := core_run_induction
    (P := fun t => Requested s.emitted i cmd args data t ∨ ∃ is, SendingFrom s.emitted cmd args data is t)
    (fun u hu => by
      obtain hu | ⟨is, hu⟩ := hu
      · exact hu.step hwf
      · obtain ⟨t, is', ht, h'⟩ := hu.step hl
        exact ⟨t, ht, .inr ⟨is', h'⟩⟩) n (.inl hstart)
  · exact ⟨t, ht, h.emitted_prefix⟩
  · exact ⟨t, ht, h.emitted⟩

end Sys2Proof.Machine
end
